-- ==== Sys2Proof/Word.lean ====
section
/-! DEFINITION. The machine's two word sizes (00_scope.md R6, R12): the nibble of ACC, RAM, LED and SW, and the byte
of PC, IR, ROM and STACK. -/

namespace Sys2Proof

/-- "a 4-bit value, the native word size of this machine's accumulator and RAM cells" (00_scope.md R12). -/
abbrev Nibble := BitVec 4

/-- An 8-bit value: a ROM or STACK cell, PC, IR (00_scope.md R6). -/
abbrev Byte := BitVec 8

end Sys2Proof
end

