-- ==== Sys2Proof/Syntax.lean ====
section
/-! DEFINITION. The instruction set: one constructor for each of the 24 rows of spec/opcode_table.json
(30_encoding.md R75, R76). Every bit of an encoding is an argument or is fixed by the constructor: the bits the decoder
reads and ignores (NOP's nibble, the `x` nibble of the two-byte opcodes) are kept as arguments, so that an instruction
and its bytes determine each other. -/

namespace Sys2Proof

/-- An instruction of the 4bitCPU-SIM ISA (00_scope.md R1: "the fixed 16 base opcodes plus 7 extended sub-opcodes"), the
nine reserved extended bytes among them (30_encoding.md R77). -/
inductive Instr where
  /-- NOP, 0x0n; `ignored` is the don't-care nibble (41_data.md R130). -/
  | nop (ignored : Nibble)
  /-- LDA [n], 0x1n (41_data.md R131). -/
  | lda (n : Nibble)
  /-- LDI n, 0x2n; `n` is an immediate (41_data.md R132). -/
  | ldi (n : Nibble)
  /-- STA [n], 0x3n (41_data.md R133). -/
  | sta (n : Nibble)
  /-- ADD [n], 0x4n (42_alu.md R143). -/
  | add (n : Nibble)
  /-- SUB [n], 0x5n (42_alu.md R144). -/
  | sub (n : Nibble)
  /-- AND [n], 0x6n (42_alu.md R145). -/
  | and (n : Nibble)
  /-- OR [n], 0x7n (42_alu.md R146). -/
  | or (n : Nibble)
  /-- XOR [n], 0x8n (42_alu.md R147). -/
  | xor (n : Nibble)
  /-- LDAI [n], 0x9n; `n` names the pointer cell (43_indirect.md R160). -/
  | ldai (n : Nibble)
  /-- STAI [n], 0xAn; `n` names the pointer cell (43_indirect.md R161). -/
  | stai (n : Nibble)
  /-- JMP t, 0xBx and then t (44_control.md R180); `ignored` is the x of 30_encoding.md R72. -/
  | jmp (ignored : Nibble) (t : Byte)
  /-- JZ t, 0xCx and then t (44_control.md R181). -/
  | jz (ignored : Nibble) (t : Byte)
  /-- JC t, 0xDx and then t (44_control.md R182). -/
  | jc (ignored : Nibble) (t : Byte)
  /-- CALL t, 0xEx and then t (44_control.md R183). -/
  | call (ignored : Nibble) (t : Byte)
  /-- HLT, 0xF0 (45_extended.md R191). -/
  | hlt
  /-- RST, 0xF1 (45_extended.md R192). -/
  | rst
  /-- OUT, 0xF2 (45_extended.md R193). -/
  | out
  /-- NOT, 0xF3 (45_extended.md R194). -/
  | not
  /-- PUSH, 0xF4 (45_extended.md R195). -/
  | push
  /-- POP, 0xF5 (45_extended.md R196). -/
  | pop
  /-- RET, 0xF6 (45_extended.md R197). -/
  | ret
  /-- The reserved byte 0xF7 (45_extended.md R198). -/
  | extReserved7
  /-- The reserved bytes 0xF8..0xFF; `s` is the sub-opcode, 8..15 (45_extended.md R198). -/
  | extReserved8to15 (s : Nibble)
  deriving DecidableEq, Repr

end Sys2Proof
end

