-- ==== Sys2Proof/WellFormed.lean ====
section
/-! DEFINITION. Which terms of `Instr` are instructions of the machine. Every operand field has the width its encoding
has, so one check is left: the sub-opcode of the reserved row 0xF8..0xFF. -/

namespace Sys2Proof

/-- Is `s` a sub-opcode of the row of reserved bytes 0xF8..0xFF (30_encoding.md R76, spec/opcode_table.json
EXT_RESERVED_8_15)? Sub-opcodes 0..7 belong to other instructions. -/
def isHighReserved (s : Nibble) : Bool := decide (8 ≤ s.toNat)

/-- Is the term an instruction the machine can be given? False only for a reserved encoding whose sub-opcode lies
outside 8..15. -/
def WellFormed : Instr → Bool
  | .extReserved8to15 s => isHighReserved s
  | .nop _ | .lda _ | .ldi _ | .sta _ | .add _ | .sub _ | .and _ | .or _ | .xor _ | .ldai _ | .stai _ => true
  | .jmp _ _ | .jz _ _ | .jc _ _ | .call _ _ => true
  | .hlt | .rst | .out | .not | .push | .pop | .ret | .extReserved7 => true

end Sys2Proof
end

