-- ==== Sys2Proof/Decode.lean ====
section
/-! DEFINITION. From bytes to instructions and back (30_encoding.md R70 to R78). Decoding is total: the only byte
lists it turns away are the ones that end before the instruction does, each by name. -/

namespace Sys2Proof

/-! ## The fields of a byte -/

/-- `op = IR[7:4]` (30_encoding.md R57, R74; 00_scope.md R11). -/
def opcodeOf (b : Byte) : Nibble := (b >>> 4).setWidth 4

/-- `n = IR[3:0]` (00_scope.md R11). -/
def operandOf (b : Byte) : Nibble := b.setWidth 4

/-- "`(opcode<<4)|(operand&0xF)`" (30_encoding.md R71). -/
def packByte (op n : Nibble) : Byte := (op.setWidth 8 <<< 4) ||| n.setWidth 8

/-- `isTwoByte(op) = (op >= 0xB and op <= 0xE)` (30_encoding.md R70). -/
def isTwoByte (op : Nibble) : Bool := decide (0xB ≤ op.toNat ∧ op.toNat ≤ 0xE)

/-! ## Decoding -/

/-- The extended map: the sub-opcode selects the operation (30_encoding.md R76, 45_extended.md R190). -/
def decodeExtended (s : Nibble) : Instr :=
  match s.toNat with
  | 0 => .hlt
  | 1 => .rst
  | 2 => .out
  | 3 => .not
  | 4 => .push
  | 5 => .pop
  | 6 => .ret
  | 7 => .extReserved7
  | _ => .extReserved8to15 s

/-- The instruction of the opcode byte `b`, total on all 256 values (30_encoding.md R78). `t` is the byte that Execute
reads at PC (44_control.md R170): the operand byte of the four two-byte opcodes, ignored by all others. -/
def decodeByte (b t : Byte) : Instr :=
  match (opcodeOf b).toNat with
  | 0x0 => .nop (operandOf b)
  | 0x1 => .lda (operandOf b)
  | 0x2 => .ldi (operandOf b)
  | 0x3 => .sta (operandOf b)
  | 0x4 => .add (operandOf b)
  | 0x5 => .sub (operandOf b)
  | 0x6 => .and (operandOf b)
  | 0x7 => .or (operandOf b)
  | 0x8 => .xor (operandOf b)
  | 0x9 => .ldai (operandOf b)
  | 0xA => .stai (operandOf b)
  | 0xB => .jmp (operandOf b) t
  | 0xC => .jz (operandOf b) t
  | 0xD => .jc (operandOf b) t
  | 0xE => .call (operandOf b) t
  | _ => decodeExtended (operandOf b)

/-- What decoding a list of bytes answers. -/
inductive Decoded where
  /-- An instruction, and the bytes after it. -/
  | instr (i : Instr) (rest : List Byte)
  /-- Turned away: there is no opcode byte. -/
  | noOpcodeByte
  /-- Turned away: a two-byte opcode with no operand byte after it (30_encoding.md R72). -/
  | noOperandByte
  deriving DecidableEq, Repr

/-- Read one instruction from the front of a list of bytes: the opcode byte alone decides the length
(30_encoding.md R70), and the opcode byte comes first (20_memory.md R57). -/
def decode : List Byte → Decoded
  | [] => .noOpcodeByte
  | b :: bs =>
    if isTwoByte (opcodeOf b) then
      match bs with
      | [] => .noOperandByte
      | t :: rest => .instr (decodeByte b t) rest
    else .instr (decodeByte b 0) bs

/-! ## Encoding -/

/-- A format A byte, `0x0n` to `0xAn` (30_encoding.md R71). -/
def formatA (op n : Nibble) : List Byte := [packByte op n]

/-- The two bytes of format B (30_encoding.md R72). -/
def formatB (op x : Nibble) (t : Byte) : List Byte := [packByte op x, t]

/-- A format X byte, opcode 0xF with the sub-opcode as operand (30_encoding.md R73). -/
def formatX (s : Nibble) : List Byte := [packByte 0xF s]

/-- The bytes of an instruction, the opcode byte first (30_encoding.md R71 to R76). -/
def encode : Instr → List Byte
  | .nop n => formatA 0x0 n
  | .lda n => formatA 0x1 n
  | .ldi n => formatA 0x2 n
  | .sta n => formatA 0x3 n
  | .add n => formatA 0x4 n
  | .sub n => formatA 0x5 n
  | .and n => formatA 0x6 n
  | .or n => formatA 0x7 n
  | .xor n => formatA 0x8 n
  | .ldai n => formatA 0x9 n
  | .stai n => formatA 0xA n
  | .jmp x t => formatB 0xB x t
  | .jz x t => formatB 0xC x t
  | .jc x t => formatB 0xD x t
  | .call x t => formatB 0xE x t
  | .hlt => formatX 0
  | .rst => formatX 1
  | .out => formatX 2
  | .not => formatX 3
  | .push => formatX 4
  | .pop => formatX 5
  | .ret => formatX 6
  | .extReserved7 => formatX 7
  | .extReserved8to15 s => formatX s

/-! ## Rows of the opcode table as numbers -/

/-- The opcode byte and the byte after it of an instruction whose low `nbits` bits are those of `w`, the first byte
lowest, and whose other bits are 0. -/
def bytesOfWord (nbits w : Nat) : Byte × Byte :=
  let v := w % 2 ^ nbits
  (BitVec.ofNat 8 v, BitVec.ofNat 8 (v / 256))

/-- The instruction the decoder reads from an instruction given as one number, bit 0 the least significant bit of its
first byte. -/
def decodeTableWord (nbits w : Nat) : Option Instr :=
  match decode [(bytesOfWord nbits w).1, (bytesOfWord nbits w).2] with
  | .instr i _ => some i
  | .noOpcodeByte => none
  | .noOperandByte => none

end Sys2Proof
end

