-- ==== Sys2Proof/Machine/Flags.lean ====
section
/-! DEFINITION. The results and flags of the 4-bit ALU (42_alu.md R141 to R148), computed from exact integers and
narrowed at the end. -/

namespace Sys2Proof.Machine

/-- The reduction of an exact result to 4 bits, `t mod 16`, also for a negative `t` (42_alu.md R142; the spec's own
reading of `& 0xF`, 93_implementation_defined.md G1 and G2, log 21). -/
def toNibble (t : Int) : Nibble := BitVec.ofInt 4 t

/-- Z after a write of ACC that defines it: "ACC == 0" (10_state.md R26). -/
def zeroFlag (v : Nibble) : Bool := v == 0

/-- The exact sum `t <- ACC + RAM[n]`, 0..30 (42_alu.md R141, R143). -/
def exactSum (a b : Nibble) : Int := (a.toNat : Int) + (b.toNat : Int)

/-- The exact signed difference `t <- ACC - RAM[n]`, -15..15 (42_alu.md R141, R144). -/
def exactDifference (a b : Nibble) : Int := (a.toNat : Int) - (b.toNat : Int)

/-- ADD's carry: "`C := t>15`" (42_alu.md R143). -/
def carryFlag (t : Int) : Bool := decide (15 < t)

/-- SUB's borrow: "`C := t<0`" (42_alu.md R144). -/
def borrowFlag (t : Int) : Bool := decide (t < 0)

/-- `zext_8` of a nibble (45_extended.md R195). -/
def widen (v : Nibble) : Byte := v.setWidth 8

/-- The low nibble of a byte: the masking of every write of ACC (10_state.md R21, 45_extended.md R196). -/
def lowNibble (b : Byte) : Nibble := b.setWidth 4

end Sys2Proof.Machine
end

