-- ==== Sys2Proof/Config.lean ====
section
/-! DEFINITION. What is fixed for one machine: the sizes and port addresses of 00_scope.md R6, and the two open
parameters of R7, which have no body here, so that nothing can be proved of their values. -/

namespace Sys2Proof.Config

/-- ROM has 256 cells, addresses 0..255 (00_scope.md R6, 10_state.md R32). -/
abbrev romCells : Nat := 256

/-- RAM has 16 cells, addresses 0..15 (00_scope.md R6, 10_state.md R32). -/
abbrev ramCells : Nat := 16

/-- STACK has 16 cells, indices 0..15 (00_scope.md R6, 10_state.md R32). -/
abbrev stackCells : Nat := 16

/-- The input port is RAM address 14 (00_scope.md R6, 20_memory.md R52). -/
abbrev inputPort : Nibble := 14

/-- The output port is RAM address 15 (00_scope.md R6, 20_memory.md R52). -/
abbrev outputPort : Nibble := 15

/-- The two values the open parameter `STACK_ON_RESET` may have (00_scope.md R7): whether Reset leaves the STACK cells
unchanged or clears them. -/
inductive StackOnReset where
  | keep
  | zero
  deriving DecidableEq, Repr, Inhabited

/-- `IR_ON_RESET` (00_scope.md R7, 92_eei_decisions.md D4): the value IR holds after the k-th Reset or LoadProgram, a
free value, drawn anew at each. DESIGN CHOICE (log 1): its form, applied to a count of the draws; safe. -/
opaque irOnReset : Nat → Byte

/-- `STACK_ON_RESET` (00_scope.md R7, 92_eei_decisions.md D5), one value for a machine. DESIGN CHOICE (log 2): a
constant without a body; safe. -/
opaque stackOnReset : StackOnReset

end Sys2Proof.Config
end

