-- ==== Sys2Proof/Machine/State.lean ====
section
/-! DEFINITION. The machine's state as plain data (10_state.md R20 to R34), its value after power-on, and the two
closed types of reasons to stop. -/

namespace Sys2Proof.Machine

/-- The control state of the fetch-decode-execute machine (10_state.md R30). -/
inductive Control where
  /-- Fetch and Execute run instructions. -/
  | running
  /-- An LDA from port 14 has begun and not finished (40_cycle.md R117 finishes it). -/
  | waitingForInput
  /-- The machine has stopped; only Reset or LoadProgram leaves this state (40_cycle.md R118). -/
  | halted
  deriving DecidableEq, Repr

/-- One region of memory, of `w`-bit cells: (address, cell) pairs, addresses strictly rising, no entry equal to what an
unlisted address reads as. An 8-bit region is a list of `Host.Cell`. The operations and the form's check are in
Machine/Memory.lean. DESIGN CHOICE (log 9): the representation; safe. -/
abbrev Memory (w : Nat) := List (Nat × BitVec w)

/-- The state of the block, "exactly the tuple" of 10_state.md R20, with the host's output stream and one counter of the
model's own. -/
structure State where
  /-- ACC, the 4-bit accumulator (10_state.md R21). -/
  acc : Nibble
  /-- PC, the 8-bit program counter (10_state.md R22). -/
  pc : Byte
  /-- IR, the last-fetched byte (10_state.md R23). -/
  ir : Byte
  /-- SP, 0..16, the next free STACK slot (10_state.md R24). The type is the range (log 8). -/
  sp : Fin 17
  /-- Z, the zero flag (10_state.md R26). -/
  z : Bool
  /-- C, the carry and borrow flag (10_state.md R27). -/
  c : Bool
  /-- `state`: Running, WaitingForInput or Halted (10_state.md R30). -/
  state : Control
  /-- ROM, 256 cells of 8 bits (10_state.md R32). -/
  rom : Memory 8
  /-- RAM, 16 cells of 4 bits (10_state.md R32). -/
  ram : Memory 4
  /-- STACK, 16 cells of 8 bits (10_state.md R32). -/
  stack : Memory 8
  /-- LED, the GPIO output register (10_state.md R28, 60_exceptions.md R228). -/
  led : Nibble
  /-- SW, the GPIO input register (10_state.md R29, 60_exceptions.md R228). -/
  sw : Nibble
  /-- The output event stream, oldest first (60_exceptions.md R227). It is the host's, not the block's (log 6). -/
  out : List Nibble
  /-- The MODEL's own: how often `IR_ON_RESET` has been drawn (log 3). -/
  resetDraws : Nat
  deriving DecidableEq, Repr

/-- Why an operation of the model stops with a fault. The machine itself raises none (60_exceptions.md R220). -/
inductive Fault where
  /-- A host accessor was asked for a cell outside its region, an access no machine state represents
  (93_implementation_defined.md I5, 20_memory.md R61). Raised by `observe` only; safe. -/
  | outOfRegion
  deriving DecidableEq, Repr

/-- Why an operation of the model is turned away. -/
inductive Refusal where
  /-- An instruction that has no meaning in `exec` yet; raised by such an arm of `exec`, of which there is none; safe. -/
  | notModelled (mnemonic : String)
  /-- LoadProgram with more than 256 code bytes (70_reset_and_hazards.md R252, 92_eei_decisions.md D14). Raised by
  `State.loadProgram` only; safe. -/
  | codeTooLong
  /-- LoadProgram with an image entry outside 0..15 (70_reset_and_hazards.md R252, 92_eei_decisions.md D14). Raised by
  `State.loadProgram` only; safe. -/
  | imageOffsetOutOfRange
  deriving DecidableEq, Repr

/-- The machine after construction (power-on): the first value column of 10_state.md R34, 70_reset_and_hazards.md R250.
Every ROM, RAM and STACK cell is 0, so none is listed. `resetDraws` is DESIGN CHOICE (log 3). -/
def State.reset : State where
  acc := 0
  pc := 0
  ir := 0x00
  sp := 0
  z := false
  c := false
  state := .running
  rom := []
  ram := []
  stack := []
  led := 0
  sw := 0
  out := []
  resetDraws := 0

end Sys2Proof.Machine
end

