-- ==== Sys2Proof/Machine/Memory.lean ====
section
/-! DEFINITION. A region of memory: reading one cell, writing one cell, loading a list of cells, and the canonical form.
The laws are in Laws/Memory.lean. -/

namespace Sys2Proof.Machine

/-- What an unlisted cell reads as: every cell of every region is 0 after construction, and LoadProgram and Reset clear
to 0 (10_state.md R34, 20_memory.md R53). -/
def Memory.unlisted (w : Nat) : BitVec w := 0

/-- The canonical form: addresses strictly rising, and no entry equal to what an unlisted cell reads as. -/
abbrev Memory.wf {w : Nat} (m : Memory w) : Prop :=
  m.Pairwise (fun p q => p.1 < q.1) ∧ ∀ p ∈ m, p.2 ≠ Memory.unlisted w

/-- Every listed address lies in a region of `n` cells (20_memory.md R61). -/
abbrev Memory.within {w : Nat} (n : Nat) (m : Memory w) : Prop := ∀ p ∈ m, p.1 < n

/-- The value of one cell. -/
def Memory.read {w : Nat} : Memory w → Nat → BitVec w
  | [], _ => Memory.unlisted w
  | (k, x) :: m, a => if k = a then x else Memory.read m a

/-- The region without any entry at `a`. -/
def Memory.unlist {w : Nat} : Memory w → Nat → Memory w
  | [], _ => []
  | (k, x) :: m, a => if k = a then Memory.unlist m a else (k, x) :: Memory.unlist m a

/-- The region with the entry (a, v) put before the first higher address. -/
def Memory.enlist {w : Nat} : Memory w → Nat → BitVec w → Memory w
  | [], a, v => [(a, v)]
  | (k, x) :: m, a, v => if a < k then (a, v) :: (k, x) :: m else (k, x) :: Memory.enlist m a v

/-- Write one cell. Writing what an unlisted cell reads as removes the entry, so that equal regions are equal lists. -/
def Memory.write {w : Nat} (m : Memory w) (a : Nat) (v : BitVec w) : Memory w :=
  if v = Memory.unlisted w then m.unlist a else (m.unlist a).enlist a v

/-- A region whose every cell is 0. -/
def Memory.cleared {w : Nat} : Memory w := []

/-- Write a list of cells at rising addresses from `a` on. -/
def Memory.writeFrom {w : Nat} : Memory w → Nat → List (BitVec w) → Memory w
  | m, _, [] => m
  | m, a, v :: vs => Memory.writeFrom (m.write a v) (a + 1) vs

/-- Write the entries of a sparse image in order, each value reduced to the cell's width
(70_reset_and_hazards.md R252: `RAM[a] <- v & 0xF`). -/
def Memory.writeImage {w : Nat} : Memory w → List (Nat × Int) → Memory w
  | m, [] => m
  | m, (a, v) :: im => Memory.writeImage (m.write a (BitVec.ofInt w v)) im

end Sys2Proof.Machine
end

