-- ==== Sys2Proof/Machine/Ops.lean ====
section
/-! DEFINITION. The named operations every meaning is made of: one-cell accesses, register writes, the two stack
operations, the input suspension with its completion, and the soft reset.

The machine takes no exception and returns from none (60_exceptions.md R220, R224, R225: no causes, no vectors, no saved
state), so there is no operation for either. What stands in their place is the input suspension, `State.suspend`, and
its end, `State.resolveInput` (60_exceptions.md R221). -/

namespace Sys2Proof.Machine

/-! ## Memory cells (20_memory.md R59: each access moves one whole cell) -/

/-- `ROM[a]` (00_scope.md R10). -/
def State.readRom (s : State) (a : Byte) : Byte := s.rom.read a.toNat

/-- `RAM[a]` (00_scope.md R10). -/
def State.readRam (s : State) (a : Nibble) : Nibble := s.ram.read a.toNat

/-- `STACK[i]` (00_scope.md R10). -/
def State.readStack (s : State) (i : Nat) : Byte := s.stack.read i

/-- `RAM[a] <- v`, plain storage at every address (20_memory.md R55, R56). -/
def State.writeRam (s : State) (a v : Nibble) : State := { s with ram := s.ram.write a.toNat v }

/-- `ROM[a] <- v`: no instruction does it (20_memory.md R65); placing a word for a fetch does. -/
def State.writeRom (s : State) (a v : Byte) : State := { s with rom := s.rom.write a.toNat v }

/-! ## Registers and flags -/

/-- `ACC <- v` and nothing else: POP's write (10_state.md R26). -/
def State.setAcc (s : State) (v : Nibble) : State := { s with acc := v }

/-- `ACC <- v; Z <- (ACC == 0)`: the write of ACC that defines Z (10_state.md R26). -/
def State.setAccZ (s : State) (v : Nibble) : State := { s with acc := v, z := zeroFlag v }

/-- `C <- b` (10_state.md R27). -/
def State.setCarry (s : State) (b : Bool) : State := { s with c := b }

/-- `PC <- t` (00_scope.md R10). -/
def State.jumpTo (s : State) (t : Byte) : State := { s with pc := t }

/-- The address after the operand byte, `(PC + 1) mod 256` (44_control.md R170). -/
def State.afterOperand (s : State) : Byte := s.pc + 1

/-- Step over the operand byte of a two-byte instruction: `PC <- (PC + 1) mod 256` (44_control.md R170). -/
def State.skipOperand (s : State) : State := s.jumpTo s.afterOperand

/-- `LED <- v` (10_state.md R28). -/
def State.setLed (s : State) (v : Nibble) : State := { s with led := v }

/-- `state <- k` (10_state.md R30). -/
def State.setControl (s : State) (k : Control) : State := { s with state := k }

/-- `emit(v)`: append to the output event stream (60_exceptions.md R227). -/
def State.emit (s : State) (v : Nibble) : State := { s with out := s.out ++ [v] }

/-! ## The stack: "push-then-increment / decrement-then-pop discipline" (10_state.md R24) -/

/-- `if SP < 16 then { STACK[SP] <- v; SP <- SP + 1 }`: a full stack drops the value in silence
(44_control.md R183, 45_extended.md R195). -/
def State.pushByte (s : State) (v : Byte) : State :=
  if h : s.sp.val < 16 then
    { s with stack := s.stack.write s.sp.val v, sp := ⟨s.sp.val + 1, Nat.succ_lt_succ h⟩ }
  else s

/-- `SP > 0`: the popped cell `STACK[SP - 1]`, and the state with `SP <- SP - 1`, the cell kept; `none` on an empty
stack (45_extended.md R196, R197). -/
def State.popByte (s : State) : Option (Byte × State) :=
  if 0 < s.sp.val then
    some (s.readStack (s.sp.val - 1), { s with sp := ⟨s.sp.val - 1, Nat.lt_of_le_of_lt (Nat.sub_le _ _) s.sp.isLt⟩ })
  else none

/-! ## The input suspension (60_exceptions.md R221) -/

/-- LDA from port 14 begins: "enter `WaitingForInput` and return (no further effect this cycle)" (41_data.md R131). -/
def State.suspend (s : State) : State := s.setControl .waitingForInput

/-- ResolveInput(value): completes the port-14 LDA, and changes nothing in any other state (40_cycle.md R117). -/
def State.resolveInput (value : Int) (s : State) : State :=
  match s.state with
  | .waitingForInput =>
    ((s.setAccZ (toNibble value)).writeRam Config.inputPort (toNibble value)).setControl .running
  | .running => s
  | .halted => s

/-! ## Soft reset (70_reset_and_hazards.md R251) -/

/-- What Reset does to the STACK cells, for a value of `STACK_ON_RESET` (70_reset_and_hazards.md R251). -/
def stackAfterReset (p : Config.StackOnReset) (m : Memory 8) : Memory 8 :=
  match p with
  | .keep => m
  | .zero => Memory.cleared

/-- The soft reset for given values of the two open parameters (70_reset_and_hazards.md R251). ROM and the output stream
are unchanged. -/
def State.softResetWith (ir : Byte) (p : Config.StackOnReset) (s : State) : State :=
  { s with
    acc := 0, pc := 0, ir := ir, sp := 0, z := false, c := false, state := .running,
    ram := Memory.cleared, stack := stackAfterReset p s.stack, led := 0, sw := 0 }

/-- Count one draw of `IR_ON_RESET` (log 1, log 3). -/
def State.countDraw (s : State) : State := { s with resetDraws := s.resetDraws + 1 }

/-- Reset(), called by the host and by RST (70_reset_and_hazards.md R251, 45_extended.md R192): IR takes a freshly drawn
`IR_ON_RESET`, STACK follows `STACK_ON_RESET`. -/
def State.softReset (s : State) : State :=
  (s.softResetWith (Config.irOnReset s.resetDraws) Config.stackOnReset).countDraw

end Sys2Proof.Machine
end

