-- ==== Sys2Proof/Machine/Operands.lean ====
section
/-! DEFINITION. The operand forms (30_encoding.md R74): a direct RAM cell and a cell through a pointer. An immediate and
a jump target are used as they stand, and need no operation. -/

namespace Sys2Proof.Machine

/-- The direct operand `RAM[n]`, plain storage at 14 and 15 too (42_alu.md R140, 20_memory.md R55, R56). -/
def State.directOperand (s : State) (n : Nibble) : Nibble := s.readRam n

/-- The effective address of LDAI and STAI: "`target := RAM[addr] & 0xF`" (43_indirect.md R160, R161). A cell has 4 bits,
so the mask is the cell itself. -/
def State.pointerTarget (s : State) (n : Nibble) : Nibble := s.readRam n

end Sys2Proof.Machine
end

