-- ==== Sys2Proof/Machine/Alu.lean ====
section
/-! DEFINITION. The meanings of ADD, SUB, AND, OR and XOR (42_alu.md). Both operands are read before ACC is written, and
the old carry is never an input (R140, R141). -/

namespace Sys2Proof.Machine

/-- A bitwise operation of ACC and RAM[n]: Z updated, C kept (42_alu.md R145 to R147). -/
def State.bitwise (f : Nibble → Nibble → Nibble) (n : Nibble) (s : State) : State :=
  s.setAccZ (f s.acc (s.directOperand n))

/-- ADD [n]: `t <- ACC + RAM[n]; C <- (t > 15); ACC <- t mod 16; Z <- (ACC == 0)` (42_alu.md R143). -/
def execAdd (n : Nibble) (s : State) : Host.Outcome State Fault Refusal :=
  let t := exactSum s.acc (s.directOperand n)
  .next ((s.setAccZ (toNibble t)).setCarry (carryFlag t))

/-- SUB [n]: `t <- ACC - RAM[n]; C <- (t < 0); ACC <- t mod 16; Z <- (ACC == 0)` (42_alu.md R144). -/
def execSub (n : Nibble) (s : State) : Host.Outcome State Fault Refusal :=
  let t := exactDifference s.acc (s.directOperand n)
  .next ((s.setAccZ (toNibble t)).setCarry (borrowFlag t))

/-- AND [n]: `ACC <- ACC & RAM[n]; Z <- (ACC == 0)` (42_alu.md R145). -/
def execAnd (n : Nibble) (s : State) : Host.Outcome State Fault Refusal := .next (s.bitwise (· &&& ·) n)

/-- OR [n]: `ACC <- ACC | RAM[n]; Z <- (ACC == 0)` (42_alu.md R146). -/
def execOr (n : Nibble) (s : State) : Host.Outcome State Fault Refusal := .next (s.bitwise (· ||| ·) n)

/-- XOR [n]: `ACC <- ACC ^ RAM[n]; Z <- (ACC == 0)` (42_alu.md R147). -/
def execXor (n : Nibble) (s : State) : Host.Outcome State Fault Refusal := .next (s.bitwise (· ^^^ ·) n)

end Sys2Proof.Machine
end

