-- ==== Sys2Proof/Machine/Data.lean ====
section
/-! DEFINITION. The meanings of NOP, LDA, LDI and STA (41_data.md). Every meaning assumes what 40_cycle.md R112 says:
`Running`, and PC one past the opcode byte; it writes what its rule names and nothing else (R113). -/

namespace Sys2Proof.Machine

/-- NOP: "(no change)" (41_data.md R130). -/
def execNop (s : State) : Host.Outcome State Fault Refusal := .next s

/-- LDA [n]: address 14 suspends and reads nothing, every other address loads and sets Z (41_data.md R131). -/
def execLda (n : Nibble) (s : State) : Host.Outcome State Fault Refusal :=
  if n = Config.inputPort then .next s.suspend else .next (s.setAccZ (s.directOperand n))

/-- LDI n: "`ACC := operand`, `Z := ACC==0`" (41_data.md R132). -/
def execLdi (n : Nibble) (s : State) : Host.Outcome State Fault Refusal := .next (s.setAccZ n)

/-- STA [n]: `RAM[n] <- ACC; if n == 15 then LED <- ACC` (41_data.md R133). -/
def execSta (n : Nibble) (s : State) : Host.Outcome State Fault Refusal :=
  if n = Config.outputPort then .next ((s.writeRam n s.acc).setLed s.acc) else .next (s.writeRam n s.acc)

end Sys2Proof.Machine
end

