-- ==== Sys2Proof/Machine/Extended.lean ====
section
/-! DEFINITION. The meanings of the extended group HLT, RST, OUT, NOT, PUSH, POP, RET and the reserved bytes
(45_extended.md). -/

namespace Sys2Proof.Machine

/-- HLT: `state <- Halted` (45_extended.md R191). -/
def execHlt (s : State) : Host.Outcome State Fault Refusal := .next (s.setControl .halted)

/-- RST: exactly the soft reset (45_extended.md R192, 70_reset_and_hazards.md R251). -/
def execRst (s : State) : Host.Outcome State Fault Refusal := .next s.softReset

/-- OUT: `emit(ACC)` (45_extended.md R193). -/
def execOut (s : State) : Host.Outcome State Fault Refusal := .next (s.emit s.acc)

/-- NOT: `ACC <- ~ACC & 0xF; Z <- (ACC == 0)` (45_extended.md R194). -/
def execNot (s : State) : Host.Outcome State Fault Refusal := .next (s.setAccZ (~~~s.acc))

/-- PUSH: `if SP < 16 then { STACK[SP] <- zext_8(ACC); SP <- SP + 1 }` (45_extended.md R195). -/
def execPush (s : State) : Host.Outcome State Fault Refusal := .next (s.pushByte (widen s.acc))

/-- POP: `if SP > 0 then { SP <- SP - 1; ACC <- STACK[SP] mod 16 }`, no flag written (45_extended.md R196). -/
def execPop (s : State) : Host.Outcome State Fault Refusal :=
  match s.popByte with
  | some (b, s') => .next (s'.setAcc (lowNibble b))
  | none => .next s

/-- RET: `if SP > 0 then { SP <- SP - 1; PC <- STACK[SP] }` (45_extended.md R197). -/
def execRet (s : State) : Host.Outcome State Fault Refusal :=
  match s.popByte with
  | some (b, s') => .next (s'.jumpTo b)
  | none => .next s

/-- The reserved byte 0xF7: "(no change)" (45_extended.md R198, 92_eei_decisions.md D6). -/
def execExtReserved7 (s : State) : Host.Outcome State Fault Refusal := .next s

/-- The reserved bytes 0xF8..0xFF: "(no change)" (45_extended.md R198, 92_eei_decisions.md D6). -/
def execExtReserved8to15 (s : State) : Host.Outcome State Fault Refusal := .next s

end Sys2Proof.Machine
end

