-- ==== Sys2Proof/Machine/Indirect.lean ====
section
/-! DEFINITION. The meanings of LDAI and STAI (43_indirect.md): a target of 14 or 15 is plain storage, with no wait and
no LED write (92_eei_decisions.md D7, D8). -/

namespace Sys2Proof.Machine

/-- LDAI [n]: `target <- RAM[n]; ACC <- RAM[target]; Z <- (ACC == 0)` (43_indirect.md R160). -/
def execLdai (n : Nibble) (s : State) : Host.Outcome State Fault Refusal :=
  .next (s.setAccZ (s.readRam (s.pointerTarget n)))

/-- STAI [n]: `target <- RAM[n]; RAM[target] <- ACC`, the pointer read before the store (43_indirect.md R161). -/
def execStai (n : Nibble) (s : State) : Host.Outcome State Fault Refusal :=
  .next (s.writeRam (s.pointerTarget n) s.acc)

end Sys2Proof.Machine
end

