-- ==== Sys2Proof/Machine/Jumps.lean ====
section
/-! DEFINITION. The meanings of JMP, JZ, JC and CALL (44_control.md). When one runs, PC is the address of its operand
byte, and `t` is that byte, which `State.execute` has read as `ROM[PC]` (R170, log 7). -/

namespace Sys2Proof.Machine

/-- Take the target, or step over the operand byte (44_control.md R170). -/
def State.branch (taken : Bool) (t : Byte) (s : State) : State := if taken then s.jumpTo t else s.skipOperand

/-- JMP t: "`PC := ROM[PC]`" (44_control.md R180). -/
def execJmp (t : Byte) (s : State) : Host.Outcome State Fault Refusal := .next (s.jumpTo t)

/-- JZ t: "if `Z`: `PC := ROM[PC]`; else `PC := PC + 1`" (44_control.md R181). -/
def execJz (t : Byte) (s : State) : Host.Outcome State Fault Refusal := .next (s.branch s.z t)

/-- JC t: "same as JZ but on `C`" (44_control.md R182). -/
def execJc (t : Byte) (s : State) : Host.Outcome State Fault Refusal := .next (s.branch s.c t)

/-- CALL t: push the address past the operand byte, unless the stack is full, and jump (44_control.md R183). -/
def execCall (t : Byte) (s : State) : Host.Outcome State Fault Refusal :=
  .next ((s.pushByte s.afterOperand).jumpTo t)

end Sys2Proof.Machine
end

