-- ==== Sys2Proof/Machine/Dispatch.lean ====
section
/-! DEFINITION. The dispatch of 40_cycle.md R112: one arm per constructor of `Instr`, each a direct call of its meaning. -/

namespace Sys2Proof.Machine

def exec (i : Instr) (s : State) : Host.Outcome State Fault Refusal :=
  match i with
  -- 41_data.md
  | .nop _ => Sys2Proof.Machine.execNop s
  | .lda n => Sys2Proof.Machine.execLda n s
  | .ldi n => Sys2Proof.Machine.execLdi n s
  | .sta n => Sys2Proof.Machine.execSta n s
  -- 42_alu.md
  | .add n => Sys2Proof.Machine.execAdd n s
  | .sub n => Sys2Proof.Machine.execSub n s
  | .and n => Sys2Proof.Machine.execAnd n s
  | .or n => Sys2Proof.Machine.execOr n s
  | .xor n => Sys2Proof.Machine.execXor n s
  -- 43_indirect.md
  | .ldai n => Sys2Proof.Machine.execLdai n s
  | .stai n => Sys2Proof.Machine.execStai n s
  -- 44_control.md
  | .jmp _ t => Sys2Proof.Machine.execJmp t s
  | .jz _ t => Sys2Proof.Machine.execJz t s
  | .jc _ t => Sys2Proof.Machine.execJc t s
  | .call _ t => Sys2Proof.Machine.execCall t s
  -- 45_extended.md
  | .hlt => Sys2Proof.Machine.execHlt s
  | .rst => Sys2Proof.Machine.execRst s
  | .out => Sys2Proof.Machine.execOut s
  | .not => Sys2Proof.Machine.execNot s
  | .push => Sys2Proof.Machine.execPush s
  | .pop => Sys2Proof.Machine.execPop s
  | .ret => Sys2Proof.Machine.execRet s
  | .extReserved7 => Sys2Proof.Machine.execExtReserved7 s
  | .extReserved8to15 _ => Sys2Proof.Machine.execExtReserved8to15 s

end Sys2Proof.Machine
end

