-- ==== Sys2Proof/Machine/Cycle.lean ====
section
/-! DEFINITION. Fetch, Execute and the canonical cycle (40_cycle.md). -/

namespace Sys2Proof.Machine

/-- `IR <- ROM[PC]; PC <- (PC + 1) mod 256`: what a Fetch that is no no-op does (40_cycle.md R110). -/
def State.fetched (s : State) : State := { s with ir := s.readRom s.pc, pc := s.pc + 1 }

/-- Fetch: a no-op in `Halted` only; in `WaitingForInput` it fetches (40_cycle.md R110, 90_conflicts.md C6). -/
def State.fetch (s : State) : State :=
  match s.state with
  | .halted => s
  | .running => s.fetched
  | .waitingForInput => s.fetched

/-- The instruction Execute performs: IR decoded, with `ROM[PC]` as the operand byte of a two-byte opcode
(40_cycle.md R112, 44_control.md R170, log 7). -/
def State.currentInstr (s : State) : Instr := decodeByte s.ir (s.readRom s.pc)

/-- Execute: a no-op in `Halted` and `WaitingForInput`, else the decoded instruction's rule (40_cycle.md R111, R112).
IR is neither cleared nor marked (R115). -/
def State.execute (s : State) : Host.Outcome State Fault Refusal :=
  match s.state with
  | .running => exec s.currentInstr s
  | .waitingForInput => .next s
  | .halted => .next s

/-- The canonical cycle: `if state == Running then { Fetch(); Execute() } else (no change)` (40_cycle.md R116). -/
def State.cycle (s : State) : Host.Outcome State Fault Refusal :=
  match s.state with
  | .running => s.fetch.execute
  | .waitingForInput => .next s
  | .halted => .next s

/-- The state whose next cycle runs the instruction with these two bytes: they lie at PC and at (PC + 1) mod 256, and the
control state is `Running`, in which alone a cycle fetches (log 10). -/
def State.placeInstr (s : State) (b t : Byte) : State :=
  ((s.writeRom s.pc b).writeRom (s.pc + 1) t).setControl .running

end Sys2Proof.Machine
end

