-- ==== Sys2Proof/Machine/Step.lean ====
section
/-! DEFINITION. The block's step, which is the canonical cycle (40_cycle.md R116, 92_eei_decisions.md D2). -/

namespace Sys2Proof.Machine

/-- One step: one canonical cycle. In `WaitingForInput` and `Halted` it changes nothing (40_cycle.md R119, log 4). -/
def step (s : State) : Host.Outcome State Fault Refusal := s.cycle

/-- `s` with an instruction, given as a number, where the next step fetches (log 10). -/
def State.withFetchWord (s : State) (nbits w : Nat) : State :=
  s.placeInstr (bytesOfWord nbits w).1 (bytesOfWord nbits w).2

end Sys2Proof.Machine
end

