-- ==== Sys2Proof/Machine/Interface.lean ====
section
/-! DEFINITION. The host's side of the block (60_exceptions.md R226): LoadProgram and ToggleSwitch, all seven operations
as one type, and the accessors. Fetch, Execute and Cycle are in Machine/Cycle.lean, ResolveInput and Reset in
Machine/Ops.lean. Each operation is one atomic transition (92_eei_decisions.md D1). -/

namespace Sys2Proof.Machine

/-! ## LoadProgram and ToggleSwitch -/

/-- What LoadProgram leaves for a value of `IR_ON_RESET`: every register, flag, GPIO register and RAM reset, ROM holding
the code from address 0 and 0x00 past it, the image in RAM, STACK and the output stream kept
(70_reset_and_hazards.md R252). -/
def State.loadedWith (ir : Byte) (code : List Byte) (image : List (Nat × Int)) (s : State) : State :=
  { s.softResetWith ir .keep with
    rom := Memory.writeFrom Memory.cleared 0 code
    ram := Memory.writeImage Memory.cleared image }

/-- LoadProgram(code, image), refused when the code has more than 256 bytes or the image an entry outside 0..15
(70_reset_and_hazards.md R252, 92_eei_decisions.md D14). Later entries of an image prevail (log 13). -/
def State.loadProgram (code : List Byte) (image : List (Nat × Int)) (s : State) : Host.Outcome State Fault Refusal :=
  if Config.romCells < code.length then .refused .codeTooLong
  else if image.all (fun e => decide (e.1 < Config.ramCells)) then
    .next (s.loadedWith (Config.irOnReset s.resetDraws) code image).countDraw
  else .refused .imageOffsetOutOfRange

/-- ToggleSwitch(i): `SW <- SW ^ (1 << i)`, i in 0..3 (60_exceptions.md R228). -/
def State.toggleSwitch (i : Fin 4) (s : State) : State := { s with sw := s.sw ^^^ (1#4 <<< i.val) }

/-! ## The operations as one type -/

/-- The host's operations (60_exceptions.md R226). -/
inductive Operation where
  /-- LoadProgram(code, image). -/
  | loadProgram (code : List Byte) (image : List (Nat × Int))
  /-- Fetch(). -/
  | fetch
  /-- Execute(). -/
  | execute
  /-- Cycle(). -/
  | cycle
  /-- ResolveInput(value). -/
  | resolveInput (value : Int)
  /-- Reset(). -/
  | reset
  /-- ToggleSwitch(i). -/
  | toggleSwitch (i : Fin 4)
  deriving DecidableEq, Repr

/-- One operation of the host, in any state (40_cycle.md R119). -/
def perform (op : Operation) (s : State) : Host.Outcome State Fault Refusal :=
  match op with
  | .loadProgram code image => s.loadProgram code image
  | .fetch => .next s.fetch
  | .execute => s.execute
  | .cycle => s.cycle
  | .resolveInput value => .next (s.resolveInput value)
  | .reset => .next s.softReset
  | .toggleSwitch i => .next (s.toggleSwitch i)

/-- A sequence of operations, each on the state the one before left (20_memory.md R62), ended by the first that is
turned away. -/
def performAll : List Operation → State → Host.Outcome State Fault Refusal
  | [], s => .next s
  | op :: ops, s =>
    match perform op s with
    | .next s' => performAll ops s'
    | .fault r => .fault r
    | .refused r => .refused r

/-! ## The accessors (10_state.md R35) -/

/-- What a host can ask for: any element of the tuple of 10_state.md R20. -/
inductive Accessor where
  | acc | pc | ir | sp | z | c | state | led | sw
  /-- `ROM[a]`. -/
  | rom (a : Nat)
  /-- `RAM[a]`. -/
  | ram (a : Nat)
  /-- `STACK[i]`. -/
  | stack (i : Nat)
  deriving DecidableEq, Repr

/-- What an accessor answers. -/
inductive Observed where
  | number (v : Nat)
  | flag (b : Bool)
  | control (k : Control)
  deriving DecidableEq, Repr

/-- A cell of a region of `n` cells. An address outside it is the model's fault (93_implementation_defined.md I5,
log 14). -/
def observeCell {w : Nat} (n : Nat) (m : Memory w) (a : Nat) : Except Fault Observed :=
  if a < n then .ok (.number (m.read a).toNat) else .error .outOfRegion

/-- A read accessor: a projection of the state, which it cannot change (10_state.md R35). -/
def observe (q : Accessor) (s : State) : Except Fault Observed :=
  match q with
  | .acc => .ok (.number s.acc.toNat)
  | .pc => .ok (.number s.pc.toNat)
  | .ir => .ok (.number s.ir.toNat)
  | .sp => .ok (.number s.sp.val)
  | .z => .ok (.flag s.z)
  | .c => .ok (.flag s.c)
  | .state => .ok (.control s.state)
  | .led => .ok (.number s.led.toNat)
  | .sw => .ok (.number s.sw.toNat)
  | .rom a => observeCell Config.romCells s.rom a
  | .ram a => observeCell Config.ramCells s.ram a
  | .stack i => observeCell Config.stackCells s.stack i

end Sys2Proof.Machine
end

