-- ==== Sys2Proof/Machine/Assembler.lean ====
section
/-! DEFINITION. The two-pass assembler of 30_encoding.md section 4 (R90 to R104), a pure function from a source text to
machine code and an initial RAM image, or an error with its source line. It is the toolchain, not the hardware
(00_scope.md R5); nothing of the machine depends on it. A text is a list of characters. Text that the spec puts outside
itself (92_eei_decisions.md D29) is answered with `outsideSpec`. -/

namespace Sys2Proof.Machine

/-- A source text, or a part of one. -/
abbrev Text := List Char

/-! ## Lexical rules (R92) -/

/-- White space within a line (log 16). -/
def isBlank (c : Char) : Bool := c == ' ' || c == '\t' || c == '\x0b' || c == '\x0c'

/-- The lines of a text: "any common line-ending", taken as LF, CR LF or CR (log 16). `cur` is the current line so far,
reversed. -/
def splitLines (cur : Text) : Text → List Text
  | [] => [cur.reverse]
  | '\r' :: '\n' :: cs => cur.reverse :: splitLines [] cs
  | '\r' :: cs => cur.reverse :: splitLines [] cs
  | '\n' :: cs => cur.reverse :: splitLines [] cs
  | c :: cs => splitLines (c :: cur) cs

/-- Everything before a `;` (R92). -/
def stripComment (t : Text) : Text := t.takeWhile (· != ';')

/-- A token ended, if there was one; `cur` is reversed. -/
def endToken (cur : Text) (rest : List Text) : List Text := if cur.isEmpty then rest else cur.reverse :: rest

/-- The tokens of a line, which white space separates. A blank line has none; surrounding white space makes none. -/
def tokensOf (cur : Text) : Text → List Text
  | [] => endToken cur []
  | c :: cs => if isBlank c then endToken cur (tokensOf [] cs) else tokensOf (c :: cur) cs

/-- A line that survives: its 0-based number in the source text and its tokens (R92). -/
structure SourceLine where
  number : Nat
  tokens : List Text
  deriving DecidableEq, Repr

/-- The lines of a text, numbered, without the blank ones (R92). -/
def sourceLines (text : Text) : List SourceLine :=
  ((splitLines [] text).zipIdx.map fun p => SourceLine.mk p.2 (tokensOf [] (stripComment p.1))).filter
    fun l => !l.tokens.isEmpty

/-! ## Sections (R93) -/

/-- The marker `.data`. -/
def dataMarker : Text := ['.', 'd', 'a', 't', 'a']

/-- The marker `.code`. -/
def codeMarker : Text := ['.', 'c', 'o', 'd', 'e']

/-- The data lines and the code lines of a text: each marker selects its own section, and lines before any marker are
code (R93, 92_eei_decisions.md D26). -/
def splitSections (inData : Bool) : List SourceLine → List SourceLine × List SourceLine
  | [] => ([], [])
  | l :: ls =>
    if l.tokens = [dataMarker] then splitSections true ls
    else if l.tokens = [codeMarker] then splitSections false ls
    else
      let r := splitSections inData ls
      if inData then (l :: r.1, r.2) else (r.1, l :: r.2)

/-! ## Tokens -/

/-- A digit 0..9. -/
def isDigitChar (c : Char) : Bool := decide ('0'.toNat ≤ c.toNat ∧ c.toNat ≤ '9'.toNat)

/-- "a non-empty string of the digits 0..9, read in base 10" (R98, 93_implementation_defined.md G4). -/
def decimal (t : Text) : Option Nat :=
  if t.isEmpty || !t.all isDigitChar then none
  else some (t.foldl (fun n c => 10 * n + (c.toNat - '0'.toNat)) 0)

/-- ASCII upper-casing (R91). -/
def upperChar (c : Char) : Char :=
  if 'a'.toNat ≤ c.toNat ∧ c.toNat ≤ 'z'.toNat then Char.ofNat (c.toNat - 32) else c

/-- The upper-cased mnemonic (R91). -/
def upper (t : Text) : Text := t.map upperChar

/-- Why a text is outside the spec (92_eei_decisions.md D29). -/
inductive Unsettled where
  /-- A label colon with no white space after it, or a label without a name (R95, log 19). -/
  | labelColon
  /-- A label defined twice (R102). -/
  | labelTwice
  /-- A data value that is no decimal integer (R94). -/
  | dataValue
  /-- Data past RAM offset 15 (R94). -/
  | dataOverflow
  /-- More than one token after a mnemonic (R95). -/
  | extraTokens
  /-- An operand that begins with a digit or a sign and is no decimal integer (R98). -/
  | operandNumeral
  deriving DecidableEq, Repr

/-- The label of a line, if it has one, and the tokens after it: a first token that ends in its only colon is a label
(R94, R95). Any other colon in the first token is unsettled (log 19). -/
def takeLabel (tokens : List Text) : Except Unsettled (Option Text × List Text) :=
  match tokens with
  | [] => .ok (none, [])
  | t :: ts =>
    if !t.contains ':' then .ok (none, t :: ts)
    else if t.getLast? == some ':' && !t.dropLast.isEmpty && !t.dropLast.contains ':' then .ok (some t.dropLast, ts)
    else .error .labelColon

/-- Labels with their values: a RAM offset or a ROM address, in one table (R102). -/
abbrev Symbols := List (Text × Nat)

/-- The first entry with exactly this name: an "exact symbol-table match" (R98), or a mnemonic's row. -/
def lookupText {α : Type} : List (Text × α) → Text → Option α
  | [], _ => none
  | (name, v) :: rows, t => if name = t then some v else lookupText rows t

/-- The entry of a line's label. -/
def bindLabel (label : Option Text) (v : Nat) : Symbols :=
  match label with
  | some name => [(name, v)]
  | none => []

/-! ## Data lines (R94) -/

/-- "Each integer is masked to 4 bits and stored into `initialRAM` at the next free RAM offset". -/
def dataValues (offset : Nat) : List Text → Except Unsettled (List (Nat × Nibble))
  | [] => .ok []
  | t :: ts =>
    match decimal t with
    | none => .error .dataValue
    | some v =>
      if offset < Config.ramCells then
        match dataValues (offset + 1) ts with
        | .ok image => .ok ((offset, BitVec.ofNat 4 v) :: image)
        | .error e => .error e
      else .error .dataOverflow

/-- The symbols and the image of the data lines, the offset counter being shared by all of them. A label is bound to the
offset before the values of its line (R94). -/
def dataPass (offset : Nat) : List SourceLine → Except Unsettled (Symbols × List (Nat × Nibble))
  | [] => .ok ([], [])
  | l :: ls =>
    match takeLabel l.tokens with
    | .error e => .error e
    | .ok (label, values) =>
      match dataValues offset values with
      | .error e => .error e
      | .ok image =>
        match dataPass (offset + values.length) ls with
        | .error e => .error e
        | .ok (syms, images) => .ok (bindLabel label offset ++ syms, image ++ images)

/-! ## Code lines (R95) -/

/-- A code line: its source line, its label, and its instruction, an upper-cased mnemonic with an operand token. -/
structure CodeLine where
  number : Nat
  label : Option Text
  instr : Option (Text × Option Text)
  deriving DecidableEq, Repr

/-- Read one code line, `[label:] MNEMONIC [operand]` (R95). -/
def parseCodeLine (l : SourceLine) : Except Unsettled CodeLine :=
  match takeLabel l.tokens with
  | .error e => .error e
  | .ok (label, []) => .ok ⟨l.number, label, none⟩
  | .ok (label, [m]) =>
    if m.contains ':' then .error .labelColon else .ok ⟨l.number, label, some (upper m, none)⟩
  | .ok (label, [m, o]) =>
    if m.contains ':' then .error .labelColon else .ok ⟨l.number, label, some (upper m, some o)⟩
  | .ok (_, _ :: _ :: _ :: _) => .error .extraTokens

/-- Read all code lines. -/
def parseCodeLines : List SourceLine → Except Unsettled (List CodeLine)
  | [] => .ok []
  | l :: ls =>
    match parseCodeLine l with
    | .error e => .error e
    | .ok c =>
      match parseCodeLines ls with
      | .error e => .error e
      | .ok cs => .ok (c :: cs)

/-! ## Mnemonics (R91) -/

/-- The standard mnemonics with their opcodes (R91). -/
def standardMnemonics : List (Text × Nibble) :=
  [ (['N', 'O', 'P'], 0x0),
    (['L', 'D', 'A'], 0x1),
    (['L', 'D', 'I'], 0x2),
    (['S', 'T', 'A'], 0x3),
    (['A', 'D', 'D'], 0x4),
    (['S', 'U', 'B'], 0x5),
    (['A', 'N', 'D'], 0x6),
    (['O', 'R'], 0x7),
    (['X', 'O', 'R'], 0x8),
    (['L', 'D', 'A', 'I'], 0x9),
    (['S', 'T', 'A', 'I'], 0xA),
    (['J', 'M', 'P'], 0xB),
    (['J', 'Z'], 0xC),
    (['J', 'C'], 0xD),
    (['C', 'A', 'L', 'L'], 0xE) ]

/-- The extended mnemonics with their sub-opcodes (R91). -/
def extendedMnemonics : List (Text × Nibble) :=
  [ (['H', 'L', 'T'], 0),
    (['R', 'S', 'T'], 1),
    (['O', 'U', 'T'], 2),
    (['N', 'O', 'T'], 3),
    (['P', 'U', 'S', 'H'], 4),
    (['P', 'O', 'P'], 5),
    (['R', 'E', 'T'], 6) ]

/-- The opcode of a standard mnemonic (R91). -/
def standardOpcode (m : Text) : Option Nibble := lookupText standardMnemonics m

/-- The sub-opcode of an extended mnemonic (R91). -/
def extendedCode (m : Text) : Option Nibble := lookupText extendedMnemonics m

/-! ## Pass 1: addresses (R96) -/

/-- The size of a code line: 2 for JMP, JZ, JC and CALL, 1 for any other mnemonic, a known one or not, 0 for a line that is
only a label (R95, R96). -/
def sizeOfCodeLine (c : CodeLine) : Nat :=
  match c.instr with
  | none => 0
  | some (m, _) =>
    match standardOpcode m with
    | some op => if isTwoByte op then 2 else 1
    | none => 1

/-- The code labels with their addresses, from the address counter on (R96). Never an error. -/
def codeLabels (address : Nat) : List CodeLine → Symbols
  | [] => []
  | c :: cs => bindLabel c.label address ++ codeLabels (address + sizeOfCodeLine c) cs

/-! ## Pass 2: code (R97 to R101) -/

/-- What resolving an operand token answers. -/
inductive Resolved where
  | value (v : Nat)
  | invalid
  | unsettled
  deriving DecidableEq, Repr

/-- Strip the enclosing bracket characters: each matching outer pair (R98 (b), log 17). `fuel` bounds the pairs. -/
def unbracket (fuel : Nat) (t : Text) : Text :=
  match fuel with
  | 0 => t
  | k + 1 =>
    match t with
    | '[' :: cs => if cs.getLast? == some ']' then unbracket k cs.dropLast else t
    | _ => t

/-- Does the token begin with a digit or a sign (R98)? -/
def beginsLikeNumeral (t : Text) : Bool :=
  match t with
  | [] => false
  | c :: _ => isDigitChar c || c == '+' || c == '-'

/-- Operand resolution (R98): the symbol, then the symbol without brackets, then a decimal integer. -/
def resolveOperand (syms : Symbols) (token : Text) : Resolved :=
  match lookupText syms token with
  | some v => .value v
  | none =>
    let t := unbracket token.length token
    match lookupText syms t with
    | some v => .value v
    | none =>
      match decimal t with
      | some v => .value v
      | none => if beginsLikeNumeral t then .unsettled else .invalid

/-- The bytes of a standard instruction with operand value `v`: one byte, with `v & 0xF`, or the opcode byte and
`v mod 256` (R100, 92_eei_decisions.md D27). -/
def emitStandard (op : Nibble) (v : Nat) : List Byte :=
  if isTwoByte op then formatB op 0 (BitVec.ofNat 8 v) else formatA op (BitVec.ofNat 4 v)

/-- What assembling answers (R90, R101). -/
inductive Assembled where
  /-- Machine code and the initial RAM image. -/
  | ok (machineCode : List Byte) (initialRAM : List (Nat × Nibble))
  /-- "Unknown Instruction", with the upper-cased mnemonic (log 18) and the 0-based source line. -/
  | unknownInstruction (mnemonic : Text) (line : Nat)
  /-- "Invalid Operand", with the token as written (log 18) and the 0-based source line. -/
  | invalidOperand (token : Text) (line : Nat)
  /-- Source text outside the spec, which a model refuses (92_eei_decisions.md D29). -/
  | outsideSpec (why : Unsettled)
  deriving DecidableEq, Repr

/-- The bytes of one line's instruction, or why assembling ends at it (R97, R98, R99). An extended mnemonic's operand is
neither resolved nor checked (92_eei_decisions.md D28). -/
def emitLine (syms : Symbols) (number : Nat) (m : Text) (operand : Option Text) : Except Assembled (List Byte) :=
  match extendedCode m with
  | some s => .ok (formatX s)
  | none =>
    match standardOpcode m with
    | none => .error (.unknownInstruction m number)
    | some op =>
      match operand with
      | none => .ok (emitStandard op 0)
      | some token =>
        match resolveOperand syms token with
        | .value v => .ok (emitStandard op v)
        | .invalid => .error (.invalidOperand token number)
        | .unsettled => .error (.outsideSpec .operandNumeral)

/-- The bytes of one code line; a line that is only a label has none (R95). -/
def emitCodeLine (syms : Symbols) (c : CodeLine) : Except Assembled (List Byte) :=
  match c.instr with
  | none => .ok []
  | some (m, operand) => emitLine syms c.number m operand

/-- The code of all lines, ended by the first error (R97, R101). -/
def codePass (syms : Symbols) : List CodeLine → Except Assembled (List Byte)
  | [] => .ok []
  | c :: cs =>
    match emitCodeLine syms c with
    | .error e => .error e
    | .ok bytes =>
      match codePass syms cs with
      | .error e => .error e
      | .ok more => .ok (bytes ++ more)

/-- Does no label stand twice (R102)? -/
def labelsDistinct (syms : Symbols) : Bool := decide (syms.map (·.1)).Nodup

/-- `Assemble(sourceText)` (R90). Pass 1 runs to its end before pass 2, so a label may be used before its line (R96). -/
def assemble (text : Text) : Assembled :=
  let sections := splitSections false (sourceLines text)
  match dataPass 0 sections.1 with
  | .error e => .outsideSpec e
  | .ok (dataSyms, image) =>
    match parseCodeLines sections.2 with
    | .error e => .outsideSpec e
    | .ok lines =>
      let syms := dataSyms ++ codeLabels 0 lines
      if labelsDistinct syms then
        match codePass syms lines with
        | .ok code => .ok code image
        | .error e => e
      else .outsideSpec .labelTwice

/-- The image as LoadProgram takes it. -/
def imageForLoad (image : List (Nat × Nibble)) : List (Nat × Int) := image.map fun e => (e.1, (e.2.toNat : Int))

end Sys2Proof.Machine
end

