-- ==== Sys2Proof/Safety.lean ====
section
/-! DEFINITION. The terms claims are stated in: the state invariant, agreement of two states on all a program can
observe, and instructions run one after the other. -/

namespace Sys2Proof.Machine

/-- The state invariant: every region is in canonical form and lists no cell outside itself (20_memory.md R61: "No access
can fall outside its region"; 10_state.md R32: "ROM/RAM/STACK sizes never change after construction"). -/
abbrev State.Inv (s : State) : Prop :=
  (s.rom.wf ∧ s.rom.within Config.romCells) ∧ (s.ram.wf ∧ s.ram.within Config.ramCells) ∧
    (s.stack.wf ∧ s.stack.within Config.stackCells)

/-- Two states agree on all a program can observe under the canonical cycle (70_reset_and_hazards.md R256): everything
but IR, which the next Fetch overwrites, the STACK cells from SP up, and the model's count of draws. -/
structure State.SameToPrograms (s t : State) : Prop where
  acc : s.acc = t.acc
  pc : s.pc = t.pc
  sp : s.sp = t.sp
  z : s.z = t.z
  c : s.c = t.c
  state : s.state = t.state
  rom : s.rom = t.rom
  ram : s.ram = t.ram
  stackBelow : ∀ i, i < s.sp.val → s.stack.read i = t.stack.read i
  led : s.led = t.led
  sw : s.sw = t.sw
  out : s.out = t.out

/-- The meanings of a list of instructions, one after the other, without fetching. -/
def execAll : List Instr → State → Host.Outcome State Fault Refusal
  | [], s => .next s
  | i :: is, s =>
    match exec i s with
    | .next s' => execAll is s'
    | .fault r => .fault r
    | .refused r => .refused r

end Sys2Proof.Machine
end

