-- ==== Sys2Proof/Certificates/Slice0/Obligations.lean ====
section
/-! DEFINITION. The statements for the provers. Each instruction's statement says how its bytes decode, that `exec`
answers a next state, and what that state is: the elements its rule names take the values of the rule, and every other
element keeps its own. Where a statement rests on one of the spec's own decisions (92_eei_decisions.md D<n>), on an
inference the spec marks as derived, or on a log entry of the model, its docstring says so. -/

open Sys2Proof Sys2Proof.Machine

/-! ## Encoding -/

/-- Words written out from the encoding tables (30_encoding.md R71 to R76), one or more of each family, some of them the
worked encodings of R104. -/
def Obligations.WrittenOutBytesDecode : Prop :=
  decode [0b00000111#8] = .instr (.nop 7) [] ∧ decode [0b00100101#8] = .instr (.ldi 5) [] ∧
  decode [0b00111111#8] = .instr (.sta 15) [] ∧ decode [0b01000000#8] = .instr (.add 0) [] ∧
  decode [0b10010011#8] = .instr (.ldai 3) [] ∧
  decode [0b11000000#8, 0b00000110#8] = .instr (.jz 0 6) [] ∧
  decode [0b11100000#8, 0b11001000#8] = .instr (.call 0 200) [] ∧
  decode [0b10110111#8, 0b01000000#8, 0b11110000#8] = .instr (.jmp 7 0x40) [0xF0] ∧
  decode [0b11110010#8] = .instr .out [] ∧ decode [0b11110011#8] = .instr .not [] ∧
  decode [0b11110111#8] = .instr .extReserved7 [] ∧ decode [0b11111001#8] = .instr (.extReserved8to15 9) []

/-- Decoding the encoding of a well-formed instruction gives the instruction back, and leaves the bytes after it. That the
nibble of NOP and of the two-byte opcodes comes back is the model's choice: R72 and R77 say these bits are ignored, R78's
NOP, JMP, JZ, JC and CALL carry no field, and the model's do (log 7). -/
def Obligations.DecodeOfEncodeIsTheInstruction : Prop :=
  ∀ (i : Instr) (rest : List Byte), WellFormed i = true → decode (encode i ++ rest) = .instr i rest

/-- What decodes is well formed, and encodes to exactly the bytes it was read from: no bit of an encoding is dropped. For
the nibble of NOP and of the two-byte opcodes this is the model's choice, not the spec's: R72 and R77 say these bits are
ignored, R78's NOP, JMP, JZ, JC and CALL carry no field, and the model's carry the nibble (log 7, DEDUCED). -/
def Obligations.EncodeOfDecodedIsTheBytes : Prop :=
  ∀ (bytes : List Byte) (i : Instr) (rest : List Byte), decode bytes = .instr i rest →
    WellFormed i = true ∧ encode i ++ rest = bytes

/-- Decoding turns away only bytes that end before their instruction does: no bytes at all, or one byte 0xB0..0xEF alone. -/
def Obligations.OnlyCutShortBytesAreTurnedAway : Prop :=
  ∀ bytes : List Byte,
    (decode bytes = .noOpcodeByte ↔ bytes = []) ∧
    (decode bytes = .noOperandByte ↔ ∃ b : Byte, bytes = [b] ∧ 0xB0 ≤ b.toNat ∧ b.toNat ≤ 0xEF)

/-! ## The step -/

/-- A step in `Running` fetches the opcode byte at PC into IR, moves PC past it, and runs the instruction that the bytes
at PC and (PC + 1) mod 256 decode to. That the step is this cycle is the spec's decision D2. -/
def Obligations.StepRunsTheDecodedInstruction : Prop :=
  ∀ (s : State) (i : Instr) (rest : List Byte), s.state = .running →
    decode [s.readRom s.pc, s.readRom (s.pc + 1)] = .instr i rest →
    WellFormed i = true ∧ step s = exec i { s with ir := s.readRom s.pc, pc := s.pc + 1 }

/-- An instruction placed by `withFetchWord` is the one the next step runs (the model's own, log 10). -/
def Obligations.PlacedWordRunsNext : Prop :=
  ∀ (s : State) (nbits w : Nat) (i : Instr), decodeTableWord nbits w = some i →
    step (s.withFetchWord nbits w) =
      exec i { s.withFetchWord nbits w with
        ir := (s.withFetchWord nbits w).readRom s.pc, pc := s.pc + 1 }

/-! ## Data movement (41_data.md) -/

/-- NOP (R130). -/
def Obligations.NopChangesNothing : Prop :=
  (∀ (n : Nibble) (t : Byte), decodeByte (0x0#4 ++ n) t = .nop n) ∧
  ∀ (n : Nibble) (s : State), exec (.nop n) s = .next s

/-- LDA [n] (R131): address 14 suspends, every other address loads and sets Z. -/
def Obligations.LdaLoadsOrSuspends : Prop :=
  (∀ (n : Nibble) (t : Byte), decodeByte (0x1#4 ++ n) t = .lda n) ∧
  (∀ s : State, exec (.lda 14) s = .next { s with state := .waitingForInput }) ∧
  ∀ (n : Nibble) (s : State), n ≠ 14 →
    exec (.lda n) s = .next { s with acc := s.readRam n, z := s.readRam n == 0 }

/-- LDI n (R132). -/
def Obligations.LdiLoadsTheImmediate : Prop :=
  (∀ (n : Nibble) (t : Byte), decodeByte (0x2#4 ++ n) t = .ldi n) ∧
  ∀ (n : Nibble) (s : State), exec (.ldi n) s = .next { s with acc := n, z := n == 0 }

/-- STA [n] (R133): the cell at n takes ACC, and LED takes it too exactly when n is 15. That address 14 is plain storage
here is also the spec's decision D9. -/
def Obligations.StaStoresAndDrivesLed : Prop :=
  (∀ (n : Nibble) (t : Byte), decodeByte (0x3#4 ++ n) t = .sta n) ∧
  ∀ (n : Nibble) (s : State), ∃ t, exec (.sta n) s = .next t ∧
    t = { s with ram := t.ram, led := t.led } ∧
    t.led = (if n = 15 then s.acc else s.led) ∧
    ∀ a : Nat, t.ram.read a = if a = n.toNat then s.acc else s.ram.read a

/-! ## ALU (42_alu.md) -/

/-- ADD [n] (R143). -/
def Obligations.AddIsTheSumModSixteen : Prop :=
  (∀ (n : Nibble) (t : Byte), decodeByte (0x4#4 ++ n) t = .add n) ∧
  ∀ (n : Nibble) (s : State), ∃ t, exec (.add n) s = .next t ∧
    t = { s with acc := t.acc, z := t.z, c := t.c } ∧
    t.acc.toNat = (s.acc.toNat + (s.readRam n).toNat) % 16 ∧
    (t.c = true ↔ 15 < s.acc.toNat + (s.readRam n).toNat) ∧ (t.z = true ↔ t.acc = 0)

/-- SUB [n] (R144). The reduction of a negative difference, `t mod 16`, is the spec's own reading, from general knowledge
(R142, 93_implementation_defined.md G2, log 21). -/
def Obligations.SubIsTheDifferenceModSixteen : Prop :=
  (∀ (n : Nibble) (t : Byte), decodeByte (0x5#4 ++ n) t = .sub n) ∧
  ∀ (n : Nibble) (s : State), ∃ t, exec (.sub n) s = .next t ∧
    t = { s with acc := t.acc, z := t.z, c := t.c } ∧
    (t.acc.toNat : Int) = ((s.acc.toNat : Int) - ((s.readRam n).toNat : Int)) % 16 ∧
    (t.c = true ↔ s.acc.toNat < (s.readRam n).toNat) ∧ (t.z = true ↔ t.acc = 0)

/-- AND, OR and XOR (R145, R146, R147): the bits of the result, one by one, with Z updated and C kept. -/
def Obligations.BitwiseWorksBitByBit : Prop :=
  (∀ (n : Nibble) (t : Byte), decodeByte (0x6#4 ++ n) t = .and n ∧ decodeByte (0x7#4 ++ n) t = .or n ∧
    decodeByte (0x8#4 ++ n) t = .xor n) ∧
  ∀ (n : Nibble) (s : State),
    (∃ t, exec (.and n) s = .next t ∧ t = { s with acc := t.acc, z := t.z } ∧ (t.z = true ↔ t.acc = 0) ∧
      ∀ k : Nat, t.acc.getLsbD k = (s.acc.getLsbD k && (s.readRam n).getLsbD k)) ∧
    (∃ t, exec (.or n) s = .next t ∧ t = { s with acc := t.acc, z := t.z } ∧ (t.z = true ↔ t.acc = 0) ∧
      ∀ k : Nat, t.acc.getLsbD k = (s.acc.getLsbD k || (s.readRam n).getLsbD k)) ∧
    (∃ t, exec (.xor n) s = .next t ∧ t = { s with acc := t.acc, z := t.z } ∧ (t.z = true ↔ t.acc = 0) ∧
      ∀ k : Nat, t.acc.getLsbD k = (s.acc.getLsbD k ^^ (s.readRam n).getLsbD k))

/-! ## Indirect (43_indirect.md) -/

/-- LDAI [n] (R160). That a target of 14 or 15 is plain storage is the spec's decision D7 (and D9 for the pointer cell). -/
def Obligations.LdaiLoadsThroughThePointer : Prop :=
  (∀ (n : Nibble) (t : Byte), decodeByte (0x9#4 ++ n) t = .ldai n) ∧
  ∀ (n : Nibble) (s : State),
    exec (.ldai n) s = .next { s with acc := s.readRam (s.readRam n), z := s.readRam (s.readRam n) == 0 }

/-- STAI [n] (R161): the cell at the pointer's target takes ACC, and LED never changes. That a target of 14 or 15 is plain
storage is the spec's decision D8 (and D9). -/
def Obligations.StaiStoresThroughThePointer : Prop :=
  (∀ (n : Nibble) (t : Byte), decodeByte (0xA#4 ++ n) t = .stai n) ∧
  ∀ (n : Nibble) (s : State), s.pointerTarget n = s.readRam n ∧
    ∃ t, exec (.stai n) s = .next t ∧ t = { s with ram := t.ram } ∧
      ∀ a : Nat, t.ram.read a = if a = (s.pointerTarget n).toNat then s.acc else s.ram.read a

/-! ## Control transfer (44_control.md) -/

/-- JMP t (R180): the instruction, and Execute of any byte 0xBx, which takes its target from `ROM[PC]`. -/
def Obligations.JmpTakesItsTarget : Prop :=
  (∀ (x : Nibble) (t : Byte) (s : State), exec (.jmp x t) s = .next { s with pc := t }) ∧
  ∀ (x : Nibble) (s : State), s.state = .running → s.ir = 0xB#4 ++ x →
    s.currentInstr = .jmp x (s.readRom s.pc) ∧ s.execute = .next { s with pc := s.readRom s.pc }

/-- JZ t (R181): the instruction, and Execute of any byte 0xCx. -/
def Obligations.JzJumpsOnZero : Prop :=
  (∀ (x : Nibble) (t : Byte) (s : State),
    exec (.jz x t) s = .next { s with pc := if s.z then t else s.pc + 1 }) ∧
  ∀ (x : Nibble) (s : State), s.state = .running → s.ir = 0xC#4 ++ x →
    s.currentInstr = .jz x (s.readRom s.pc) ∧
      s.execute = .next { s with pc := if s.z then s.readRom s.pc else s.pc + 1 }

/-- JC t (R182): the instruction, and Execute of any byte 0xDx. -/
def Obligations.JcJumpsOnCarry : Prop :=
  (∀ (x : Nibble) (t : Byte) (s : State),
    exec (.jc x t) s = .next { s with pc := if s.c then t else s.pc + 1 }) ∧
  ∀ (x : Nibble) (s : State), s.state = .running → s.ir = 0xD#4 ++ x →
    s.currentInstr = .jc x (s.readRom s.pc) ∧
      s.execute = .next { s with pc := if s.c then s.readRom s.pc else s.pc + 1 }

/-- CALL t (R183): the jump always happens, and the return address is pushed unless the stack is full, when it is dropped.
That the return address wraps modulo 256 is an inference the spec marks as derived. -/
def Obligations.CallPushesAndJumps : Prop :=
  (∀ (x : Nibble) (s : State), s.ir = 0xE#4 ++ x → s.currentInstr = .call x (s.readRom s.pc)) ∧
  ∀ (x : Nibble) (target : Byte) (s : State), ∃ t, exec (.call x target) s = .next t ∧
    t = { s with pc := target, sp := t.sp, stack := t.stack } ∧
    t.sp.val = min 16 (s.sp.val + 1) ∧
    ∀ i : Nat, t.stack.read i = if i = s.sp.val ∧ s.sp.val < 16 then s.pc + 1 else s.stack.read i

/-! ## Extended group (45_extended.md) -/

/-- HLT (R191): it halts, and in `Halted` no Fetch, Execute or ResolveInput changes anything. -/
def Obligations.HltHalts : Prop :=
  (∀ t : Byte, decodeByte 0xF0#8 t = .hlt) ∧
  (∀ s : State, exec .hlt s = .next { s with state := .halted }) ∧
  ∀ (s : State) (value : Int), s.state = .halted →
    perform .fetch s = .next s ∧ perform .execute s = .next s ∧ perform (.resolveInput value) s = .next s

/-- RST and the host's Reset are one operation (R192, R251). IR and STACK after it are the spec's open parameters (D4, D5,
logs 1 and 2): of IR nothing is said, of STACK only that it is kept or cleared. -/
def Obligations.RstIsTheSoftReset : Prop :=
  (∀ t : Byte, decodeByte 0xF1#8 t = .rst) ∧
  ∀ s : State, perform .reset s = exec .rst s ∧ ∃ t, exec .rst s = .next t ∧
    t = { s with
          acc := 0, pc := 0, ir := t.ir, sp := 0, z := false, c := false, state := .running,
          ram := t.ram, stack := t.stack, led := 0, sw := 0, resetDraws := t.resetDraws } ∧
    (∀ a : Nat, t.ram.read a = 0) ∧
    ((∀ i : Nat, t.stack.read i = s.stack.read i) ∨ ∀ i : Nat, t.stack.read i = 0)

/-- OUT (R193): ACC's value is appended to the output stream. That the output is a stream of 4-bit values is the spec's
decision D16; that State holds it is the model's (log 6). -/
def Obligations.OutAppendsAcc : Prop :=
  (∀ t : Byte, decodeByte 0xF2#8 t = .out) ∧
  ∀ s : State, exec .out s = .next { s with out := s.out ++ [s.acc] }

/-- NOT (R194): ACC becomes 15 - ACC. -/
def Obligations.NotIsFifteenMinusAcc : Prop :=
  (∀ t : Byte, decodeByte 0xF3#8 t = .not) ∧
  ∀ s : State, ∃ t, exec .not s = .next t ∧ t = { s with acc := t.acc, z := t.z } ∧
    t.acc.toNat = 15 - s.acc.toNat ∧ (t.z = true ↔ t.acc = 0)

/-- PUSH (R195): a full stack absorbs it in silence. -/
def Obligations.PushStoresAcc : Prop :=
  (∀ t : Byte, decodeByte 0xF4#8 t = .push) ∧
  (∀ s : State, s.sp.val = 16 → exec .push s = .next s) ∧
  ∀ s : State, s.sp.val < 16 → ∃ t, exec .push s = .next t ∧
    t = { s with sp := t.sp, stack := t.stack } ∧ t.sp.val = s.sp.val + 1 ∧
    ∀ i : Nat, t.stack.read i = if i = s.sp.val then s.acc.setWidth 8 else s.stack.read i

/-- POP (R196): an empty stack absorbs it in silence; no flag is written and the popped cell is kept. That a popped return
address loses its high nibble is an inference the spec marks as derived (from R21). -/
def Obligations.PopLoadsTheLowNibble : Prop :=
  (∀ t : Byte, decodeByte 0xF5#8 t = .pop) ∧
  (∀ s : State, s.sp.val = 0 → exec .pop s = .next s) ∧
  ∀ s : State, 0 < s.sp.val → ∃ t, exec .pop s = .next t ∧
    t = { s with acc := t.acc, sp := t.sp } ∧ t.sp.val = s.sp.val - 1 ∧
    t.acc.toNat = (s.readStack (s.sp.val - 1)).toNat % 16

/-- RET (R197): an empty stack absorbs it in silence; the popped cell is kept. -/
def Obligations.RetPopsIntoPc : Prop :=
  (∀ t : Byte, decodeByte 0xF6#8 t = .ret) ∧
  (∀ s : State, s.sp.val = 0 → exec .ret s = .next s) ∧
  ∀ s : State, 0 < s.sp.val → ∃ t, exec .ret s = .next t ∧
    t = { s with pc := s.readStack (s.sp.val - 1), sp := t.sp } ∧ t.sp.val = s.sp.val - 1

/-- The reserved bytes 0xF7..0xFF (R198) change nothing, which is the spec's decision D6. -/
def Obligations.ReservedBytesChangeNothing : Prop :=
  (∀ (b t : Byte), 0xF7 ≤ b.toNat →
    decodeByte b t = if b = 0xF7 then .extReserved7 else .extReserved8to15 (b.setWidth 4)) ∧
  (∀ s : State, exec .extReserved7 s = .next s) ∧
  ∀ (n : Nibble) (s : State), exec (.extReserved8to15 n) s = .next s

/-! ## Fetch, Execute, Cycle and the host's operations -/

/-- Fetch (R110): a no-op in `Halted`; in `Running` and in `WaitingForInput` it loads IR and advances PC, wrapping. -/
def Obligations.FetchLoadsIrUnlessHalted : Prop :=
  ∀ s : State, (s.state = .halted → s.fetch = s) ∧
    (s.state ≠ .halted → ∃ t, s.fetch = t ∧ t = { s with ir := s.readRom s.pc, pc := t.pc } ∧
      t.pc.toNat = (s.pc.toNat + 1) % 256)

/-- Execute changes nothing in `Halted` and in `WaitingForInput` (R111). -/
def Obligations.ExecuteIsGated : Prop :=
  ∀ s : State, s.state = .halted ∨ s.state = .waitingForInput → s.execute = .next s

/-- In `Running`, Execute runs the decoded IR and always answers a next state, and Cycle is Fetch and then Execute; in the
other two states Cycle changes nothing (R112, R116, R119). The cycle is the spec's decision D2. -/
def Obligations.CycleIsFetchThenExecute : Prop :=
  ∀ s : State,
    (s.state = .running →
      s.execute = exec (decodeByte s.ir (s.readRom s.pc)) s ∧ (∃ t, s.execute = .next t) ∧
      step s = s.fetch.execute) ∧
    (s.state ≠ .running → step s = .next s)

/-- ResolveInput (R117). The reading of a negative value, `mod 16`, is the spec's own, from general knowledge (G1,
log 21); that SW and LED are kept is its decision D12. -/
def Obligations.ResolveInputCompletesTheLda : Prop :=
  ∀ (value : Int) (s : State),
    (s.state ≠ .waitingForInput → perform (.resolveInput value) s = .next s) ∧
    (s.state = .waitingForInput → ∃ t, perform (.resolveInput value) s = .next t ∧
      t = { s with acc := t.acc, z := t.z, ram := t.ram, state := .running } ∧
      (t.acc.toNat : Int) = value % 16 ∧ (t.z = true ↔ t.acc = 0) ∧
      ∀ a : Nat, t.ram.read a = if a = 14 then t.acc else s.ram.read a)

/-- ToggleSwitch(i) flips bit i of SW and changes nothing else, in every control state (R228; the spec's decisions D10 and
D11). That it acts in `Halted` too is the model's reading (log 12, DEDUCED, unsafe): the table of R119 says so, while R233
and R263 can be read otherwise. -/
def Obligations.ToggleSwitchFlipsOneBit : Prop :=
  ∀ (i : Fin 4) (s : State), ∃ t, perform (.toggleSwitch i) s = .next t ∧ t = { s with sw := t.sw } ∧
    ∀ k : Fin 4, t.sw.getLsbD k.val = (if k = i then !s.sw.getLsbD k.val else s.sw.getLsbD k.val)

/-- LoadProgram (R252; the spec's decisions D4, D13, D14 and D15): the code from address 0 with 0x00 past it, the image in
RAM, everything else reset but STACK and the output stream; refused when an argument is out of range. That code too long is
the ground named when an offset is out of range as well is the model's choice (log 13, DESIGN CHOICE). The reduction of a
negative image value, `mod 16`, is the spec's own reading, from general knowledge (R9, G1, log 21, PRESUMED). -/
def Obligations.LoadProgramLoadsCodeAndImage : Prop :=
  ∀ (code : List Byte) (image : List (Nat × Int)) (s : State),
    (256 < code.length → perform (.loadProgram code image) s = .refused .codeTooLong) ∧
    (code.length ≤ 256 → (∃ e ∈ image, 16 ≤ e.1) →
      perform (.loadProgram code image) s = .refused .imageOffsetOutOfRange) ∧
    (code.length ≤ 256 → (∀ e ∈ image, e.1 < 16) → (image.map Prod.fst).Nodup →
      ∃ t, perform (.loadProgram code image) s = .next t ∧
        t = { s with
              acc := 0, pc := 0, ir := t.ir, sp := 0, z := false, c := false, state := .running,
              rom := t.rom, ram := t.ram, led := 0, sw := 0, resetDraws := t.resetDraws } ∧
        (∀ a : Nat, t.rom.read a = code.getD a 0) ∧
        (∀ e ∈ image, ((t.ram.read e.1).toNat : Int) = e.2 % 16) ∧
        ∀ a : Nat, a ∉ image.map Prod.fst → t.ram.read a = 0)

/-- The state after construction (R34, R250), which is the spec's decision D3: every register, flag and cell is 0, and the
machine is `Running` with an empty output stream. From it the all-zero ROM runs as NOPs forever, PC wrapping (R130, R250,
which the spec marks as derived). -/
def Obligations.ConstructionIsAllZero : Prop :=
  State.reset.acc = 0 ∧ State.reset.pc = 0 ∧ State.reset.ir = 0 ∧ State.reset.sp.val = 0 ∧
  State.reset.z = false ∧ State.reset.c = false ∧ State.reset.state = .running ∧
  State.reset.led = 0 ∧ State.reset.sw = 0 ∧ State.reset.out = [] ∧
  (∀ a : Nat, State.reset.rom.read a = 0) ∧ (∀ a : Nat, State.reset.ram.read a = 0) ∧
  (∀ i : Nat, State.reset.stack.read i = 0) ∧
  ∀ k : Nat, Sys2Proof.core.run k State.reset = .next { State.reset with pc := BitVec.ofNat 8 k }

/-- The accessors of the memory regions (R35): a cell inside its region is answered; one outside it is the model's fault
(the model's choice, log 14, from 93_implementation_defined.md I5). -/
def Obligations.AccessorsAnswerInsideTheirRegion : Prop :=
  ∀ (s : State) (a : Nat),
    observe (.rom a) s = (if a < 256 then .ok (.number (s.rom.read a).toNat) else .error .outOfRegion) ∧
    observe (.ram a) s = (if a < 16 then .ok (.number (s.ram.read a).toNat) else .error .outOfRegion) ∧
    observe (.stack a) s = (if a < 16 then .ok (.number (s.stack.read a).toNat) else .error .outOfRegion)

/-! ## What holds of every instruction and every operation -/

/-- The transitions of `state` are exactly those of the table of R118: the control state after any operation. The clause of
Cycle follows from R116's cycle, the spec's decision D2, and R119; ToggleSwitch, which keeps the control state, is the
spec's decision D11. -/
def Obligations.ControlStateChangesOnlyAsTabled : Prop :=
  ∀ (op : Operation) (s t : State), perform op s = .next t →
    t.state =
      match op with
      | .loadProgram _ _ => .running
      | .reset => .running
      | .fetch => s.state
      | .toggleSwitch _ => s.state
      | .resolveInput _ => if s.state = .waitingForInput then .running else s.state
      | .execute =>
        if s.state = .running then
          match decodeByte s.ir (s.readRom s.pc) with
          | .lda n => if n = 14 then .waitingForInput else .running
          | .hlt => .halted
          | _ => .running
        else s.state
      | .cycle =>
        if s.state = .running then
          match decodeByte (s.readRom s.pc) (s.readRom (s.pc + 1)) with
          | .lda n => if n = 14 then .waitingForInput else .running
          | .hlt => .halted
          | _ => .running
        else s.state

/-- The flags after every instruction: the table of R148, which the spec marks as derived. -/
def Obligations.FlagsFollowTheFlagTable : Prop :=
  ∀ (i : Instr) (s t : State), exec i s = .next t →
    (match i with
      | .lda n => if n = 14 then t.z = s.z else t.z = (t.acc == 0)
      | .ldi _ | .add _ | .sub _ | .and _ | .or _ | .xor _ | .ldai _ | .not => t.z = (t.acc == 0)
      | .rst => t.z = false
      | _ => t.z = s.z) ∧
    (match i with
      | .add n => t.c = decide (15 < s.acc.toNat + (s.readRam n).toNat)
      | .sub n => t.c = decide (s.acc.toNat < (s.readRam n).toNat)
      | .rst => t.c = false
      | _ => t.c = s.c)

/-- The frame of every instruction at once (R113, the spec's decision D24): each element of the state (each register and
flag, the control state, each RAM and each STACK cell, LED, SW and the output stream, and ROM) is written by the
instructions named for it, under the condition named with them, and by no other. STA writes the cell n alone, STAI the
pointer's target alone, CALL and PUSH the cell at SP alone. The model's own count of draws (log 3) is framed as well. -/
def Obligations.EachElementHasOnlyItsWriters : Prop :=
  ∀ (i : Instr) (s t : State), exec i s = .next t →
    t.rom = s.rom ∧
    (match i with
      | .lda n => n ≠ 14 ∨ t.acc = s.acc
      | .ldi _ | .add _ | .sub _ | .and _ | .or _ | .xor _ | .ldai _ | .not | .rst => True
      | .pop => 0 < s.sp.val ∨ t.acc = s.acc
      | _ => t.acc = s.acc) ∧
    (match i with
      | .lda n => n ≠ 14 ∨ t.z = s.z
      | .ldi _ | .add _ | .sub _ | .and _ | .or _ | .xor _ | .ldai _ | .not | .rst => True
      | _ => t.z = s.z) ∧
    (match i with
      | .add _ | .sub _ | .rst => True
      | _ => t.c = s.c) ∧
    (match i with
      | .jmp _ _ | .jz _ _ | .jc _ _ | .call _ _ | .rst => True
      | .ret => 0 < s.sp.val ∨ t.pc = s.pc
      | _ => t.pc = s.pc) ∧
    (match i with
      | .call _ _ | .push => s.sp.val < 16 ∨ t.sp = s.sp
      | .ret | .pop => 0 < s.sp.val ∨ t.sp = s.sp
      | .rst => True
      | _ => t.sp = s.sp) ∧
    (match i with
      | .lda n => n = 14 ∨ t.state = s.state
      | .hlt | .rst => True
      | _ => t.state = s.state) ∧
    (match i with
      | .sta n => ∀ a : Nat, a ≠ n.toNat → t.ram.read a = s.ram.read a
      | .stai n => ∀ a : Nat, a ≠ (s.pointerTarget n).toNat → t.ram.read a = s.ram.read a
      | .rst => True
      | _ => t.ram = s.ram) ∧
    (match i with
      | .call _ _ | .push => ∀ k : Nat, k ≠ s.sp.val ∨ s.sp.val = 16 → t.stack.read k = s.stack.read k
      | .rst => True
      | _ => t.stack = s.stack) ∧
    (match i with
      | .sta n => n = 15 ∨ t.led = s.led
      | .rst => True
      | _ => t.led = s.led) ∧
    (match i with
      | .rst => True
      | _ => t.sw = s.sw ∧ t.ir = s.ir ∧ t.resetDraws = s.resetDraws) ∧
    (match i with
      | .out => True
      | _ => t.out = s.out)

/-- SP after every instruction: only CALL, PUSH, RET, POP and RST move it, and it stays within 0..16 (R24, which the spec
marks as derived). -/
def Obligations.SpMovesOnlyOnTheStackInstructions : Prop :=
  ∀ (i : Instr) (s t : State), exec i s = .next t →
    t.sp.val =
      match i with
      | .call _ _ | .push => min 16 (s.sp.val + 1)
      | .ret | .pop => s.sp.val - 1
      | .rst => 0
      | _ => s.sp.val

/-- ROM is written by LoadProgram only: any run of the other operations leaves it as it was (R65). -/
def Obligations.OnlyLoadProgramWritesRom : Prop :=
  ∀ (ops : List Operation) (s t : State),
    (∀ op ∈ ops, ∀ code image, op ≠ .loadProgram code image) → performAll ops s = .next t → t.rom = s.rom

/-- No instruction reads ROM as data (R51; that no ROM byte reaches STACK is an inference the spec marks as derived): what
an instruction does is the same over every ROM, and the operand byte of a two-byte instruction reaches PC alone. Of JMP,
JZ, JC and CALL the first clause holds only because the model's instruction carries its operand byte (log 7, DEDUCED),
which R170's Execute reads as `ROM[PC]`. -/
def Obligations.RomIsNeverData : Prop :=
  (∀ (i : Instr) (s : State) (m : Memory 8),
    exec i { s with rom := m } =
      match exec i s with
      | .next t => .next { t with rom := m }
      | .fault r => .fault r
      | .refused r => .refused r) ∧
  ∀ (x : Nibble) (t u : Byte) (s : State),
    ∀ p ∈ [(Instr.jmp x t, Instr.jmp x u), (.jz x t, .jz x u), (.jc x t, .jc x u), (.call x t, .call x u)],
      ∃ a b, exec p.1 s = .next a ∧ exec p.2 s = .next b ∧ b = { a with pc := b.pc }

/-- LED goes on mirroring RAM[15] through every instruction but a STAI whose target is 15 (R28; the spec's decisions D8 and
D11, 90_conflicts.md C4). -/
def Obligations.LedMirrorsUntilAnIndirectStore : Prop :=
  ∀ (i : Instr) (s t : State), exec i s = .next t → s.led = s.readRam 15 →
    (∀ n, i = .stai n → s.readRam n ≠ 15) → t.led = t.readRam 15

/-- The machine raises no error: from every state any number of steps answers a next state (R220). -/
def Obligations.NoRunEverStops : Prop :=
  ∀ (k : Nat) (s : State), ∃ t : State, Sys2Proof.core.run k s = .next t

/-- `Halted` is final (R119, R263): operations other than Reset and LoadProgram change nothing but SW, and nothing at all
without a ToggleSwitch. That ToggleSwitch acts in `Halted` is the model's reading of R119 (log 12). -/
def Obligations.HaltedIsFinal : Prop :=
  ∀ (ops : List Operation) (s : State), s.state = .halted →
    (∀ op ∈ ops, op ≠ .reset ∧ ∀ code image, op ≠ .loadProgram code image) →
    ∃ t, performAll ops s = .next t ∧ t = { s with sw := t.sw } ∧
      ((∀ op ∈ ops, ∀ i, op ≠ .toggleSwitch i) → t = s)

/-- The wait ends only through ResolveInput, Reset or LoadProgram (R120, which the spec marks as derived): cycles, Executes
and ToggleSwitches change nothing but SW. -/
def Obligations.WaitingGoesOnUntilTheHostActs : Prop :=
  ∀ (ops : List Operation) (s : State), s.state = .waitingForInput →
    (∀ op ∈ ops, op = .cycle ∨ op = .execute ∨ ∃ i, op = .toggleSwitch i) →
    ∃ t, performAll ops s = .next t ∧ t = { s with sw := t.sw } ∧
      ((∀ op ∈ ops, ∀ i, op ≠ .toggleSwitch i) → t = s)

/-- The input port from end to end (the example of 95_test_vectors.md S9): an LDA [14] waits, any number of cycles changes
nothing, and ResolveInput completes it in place, PC being one past the LDA byte. The reading of a negative value, `mod 16`,
is the spec's own, from general knowledge (G1, log 21, PRESUMED); the cycle is the spec's decision D2. -/
def Obligations.InputPortRoundTrip : Prop :=
  ∀ (k : Nat) (value : Int) (s : State), s.state = .running → s.readRom s.pc = 0x1E →
    ∃ t, performAll (.cycle :: List.replicate k .cycle ++ [.resolveInput value]) s = .next t ∧
      t = { s with pc := s.pc + 1, ir := 0x1E, acc := t.acc, z := t.z, ram := t.ram } ∧
      (t.acc.toNat : Int) = value % 16 ∧ (t.z = true ↔ t.acc = 0) ∧
      ∀ a : Nat, t.ram.read a = if a = 14 then t.acc else s.ram.read a

/-! ## The stack over several instructions -/

/-- k PUSHes in a row fill the stack up to 16 entries and no further (R195, the example of 95_test_vectors.md S10). -/
def Obligations.PushesStopAtSixteen : Prop :=
  ∀ (k : Nat) (s : State), ∃ t, execAll (List.replicate k .push) s = .next t ∧
    t = { s with sp := t.sp, stack := t.stack } ∧ t.sp.val = min 16 (s.sp.val + k) ∧
    ∀ i : Nat, t.stack.read i =
      if s.sp.val ≤ i ∧ i < t.sp.val then s.acc.setWidth 8 else s.stack.read i

/-- As many RETs as CALLs come back to the byte after the first CALL's operand, with SP as before, as long as the stack had
room (R183, R197, the example of 95_test_vectors.md S7). -/
def Obligations.NestedCallsReturn : Prop :=
  ∀ (calls : List (Nibble × Byte)) (s : State), s.sp.val + calls.length ≤ 16 →
    ∃ t, execAll (calls.map (fun p => .call p.1 p.2) ++ List.replicate calls.length .ret) s = .next t ∧
      t = { s with pc := t.pc, stack := t.stack } ∧
      t.pc = (if calls = [] then s.pc else s.pc + 1) ∧
      ∀ i : Nat, i < s.sp.val ∨ s.sp.val + calls.length ≤ i → t.stack.read i = s.stack.read i

/-! ## The host hazards (70_reset_and_hazards.md) -/

/-- k Fetches during the wait (R261, which the spec marks as derived): the next Execute performs the byte the last of them
loaded, and the k - 1 bytes before it are skipped. -/
def Obligations.FetchesWhileWaitingSkipBytes : Prop :=
  ∀ (k : Nat) (value : Int) (s : State), s.state = .waitingForInput →
    ∃ t, performAll (List.replicate (k + 1) .fetch ++ [.resolveInput value]) s = .next t ∧
      t.state = .running ∧ t.pc = s.pc + BitVec.ofNat 8 (k + 1) ∧
      t.ir = s.readRom (s.pc + BitVec.ofNat 8 k) ∧
      perform .execute t = exec (decodeByte t.ir (s.readRom t.pc)) t

/-- Two Executes with no Fetch between (R115, R262, which the spec marks as derived, and its decision D23). Whatever is in
IR, the first answers a next state, and the second performs the IR that the first left, with the PC that the first left,
if that state is `Running`, and changes nothing if not; of every instruction but RST, that IR is the IR of before. A JMP
lands at the byte its first target holds, and a CALL pushes twice, as far as the stack has room. -/
def Obligations.ExecuteTwiceRunsIrTwice : Prop :=
  (∀ s : State, s.state = .running → ∃ t, perform .execute s = .next t ∧
    (decodeByte s.ir (s.readRom s.pc) ≠ .rst → t.ir = s.ir) ∧
    performAll [.execute, .execute] s =
      if t.state = .running then exec (decodeByte t.ir (s.readRom t.pc)) t else .next t) ∧
  (∀ (x : Nibble) (s : State), s.state = .running → s.ir = 0xB#4 ++ x →
    performAll [.execute, .execute] s = .next { s with pc := s.readRom (s.readRom s.pc) }) ∧
  ∀ (x : Nibble) (s : State), s.state = .running → s.ir = 0xE#4 ++ x →
    ∃ t, performAll [.execute, .execute] s = .next t ∧
      t = { s with pc := s.readRom (s.readRom s.pc), sp := t.sp, stack := t.stack } ∧
      t.sp.val = min 16 (s.sp.val + 2) ∧
      ∀ k : Nat, t.stack.read k =
        if k = s.sp.val ∧ s.sp.val < 16 then s.pc + 1
        else if k = s.sp.val + 1 ∧ s.sp.val < 15 then s.readRom s.pc + 1
        else s.stack.read k

/-! ## Invariants and what programs can observe -/

/-- Two canonical regions that read alike everywhere are equal (the model's representation, log 9). -/
def Obligations.RegionsThatReadAlikeAreEqual : Prop :=
  ∀ (w : Nat) (m k : Memory w), m.wf → k.wf → (∀ a : Nat, m.read a = k.read a) → m = k

/-- The invariant holds of the reset state. -/
def Obligations.ResetMeetsTheInvariant : Prop := State.reset.Inv

/-- Every step keeps the invariant: the regions stay canonical and never grow past their sizes. The canonical form is the
model's own (log 9); that no access leaves its region is R61, which the spec marks as derived. -/
def Obligations.EveryStepKeepsTheInvariant : Prop :=
  ∀ s t : State, s.Inv → step s = .next t → t.Inv

/-- Every operation of the host keeps the invariant too, LoadProgram among them (log 9 and R61, as above). -/
def Obligations.EveryOperationKeepsTheInvariant : Prop :=
  ∀ (op : Operation) (s t : State), s.Inv → perform op s = .next t → t.Inv

/-- No program can observe IR_ON_RESET, STACK_ON_RESET or the STACK cells from before a reset (R256, which the spec marks
as derived). Two states that agree on all a program can observe go on agreeing through any number of cycles, and two
resets that differ in the two parameters leave such states. -/
def Obligations.ProgramsCannotObserveResetParameters : Prop :=
  (∀ (ir₁ ir₂ : Byte) (p₁ p₂ : Config.StackOnReset) (s : State),
    (s.softResetWith ir₁ p₁).SameToPrograms (s.softResetWith ir₂ p₂)) ∧
  ∀ (k : Nat) (s t : State), s.SameToPrograms t →
    ∃ s' t' : State, Sys2Proof.core.run k s = .next s' ∧ Sys2Proof.core.run k t = .next t' ∧
      s'.SameToPrograms t'

/-! ## The assembler (30_encoding.md section 4) -/

/-- Emission (R100, R91; the reduction of a two-byte operand is the spec's decision D27): a standard mnemonic's bytes
decode to its opcode with the operand reduced to 4 or to 8 bits, and no mnemonic is in both tables. -/
def Obligations.EmittedBytesCarryTheOperand : Prop :=
  ∀ (m : Text) (op : Nibble) (v : Nat), standardOpcode m = some op →
    extendedCode m = none ∧
    (isTwoByte op = false →
      emitStandard op v = [op ++ BitVec.ofNat 4 v] ∧
      decode (emitStandard op v) = .instr (decodeByte (op ++ BitVec.ofNat 4 v) 0) []) ∧
    (isTwoByte op = true →
      emitStandard op v = [op ++ 0#4, BitVec.ofNat 8 v] ∧
      decode (emitStandard op v) = .instr (decodeByte (op ++ 0#4) (BitVec.ofNat 8 v)) [])

/-- Pass 2 emits as many bytes as pass 1 counted, so that every code label is the number of bytes before its line (R95,
R96). -/
def Obligations.LabelsAreTheAddressesOfTheirLines : Prop :=
  ∀ (syms : Symbols) (before after : List CodeLine) (line : CodeLine) (code : List Byte),
    codePass syms (before ++ line :: after) = .ok code →
    ∃ head tail, codePass syms before = .ok head ∧ code = head ++ tail ∧
      head.length = (before.map sizeOfCodeLine).sum ∧
      ∀ name, line.label = some name → (name, head.length) ∈ codeLabels 0 (before ++ line :: after)

/-- What the assembler answers, LoadProgram takes, if the code fits ROM, and every image value is then in its RAM cell
(R90, R94, R252). -/
def Obligations.AssembledProgramsLoad : Prop :=
  ∀ (text : Text) (code : List Byte) (image : List (Nat × Nibble)) (s : State),
    assemble text = .ok code image → code.length ≤ 256 →
    ∃ t, perform (.loadProgram code (imageForLoad image)) s = .next t ∧ ∀ e ∈ image, t.ram.read e.1 = e.2
end

