-- ==== Sys2Proof/Laws/Decode.lean ====
section
/-! SUPPORT. The fields of a packed byte, and the few unfolding lemmas of the decoder. -/

namespace Sys2Proof

@[simp] theorem opcodeOf_packByte (op n : Nibble) : opcodeOf (packByte op n) = op := by
  revert op n; decide

@[simp] theorem operandOf_packByte (op n : Nibble) : operandOf (packByte op n) = n := by
  revert op n; decide

@[simp] theorem packByte_fields (b : Byte) : packByte (opcodeOf b) (operandOf b) = b := by
  revert b; decide

/-- A decoded two-byte opcode takes the byte after it (30_encoding.md R70, R72). -/
theorem decode_twoByte {b : Byte} (t : Byte) (rest : List Byte) (h : isTwoByte (opcodeOf b) = true) :
    decode (b :: t :: rest) = .instr (decodeByte b t) rest := by
  simp [decode, h]

/-- A decoded one-byte opcode takes no further byte (30_encoding.md R70). -/
theorem decode_oneByte {b : Byte} (rest : List Byte) (h : isTwoByte (opcodeOf b) = false) :
    decode (b :: rest) = .instr (decodeByte b 0) rest := by
  simp [decode, h]

@[simp] theorem decode_nil : decode [] = .noOpcodeByte := rfl

end Sys2Proof
end

