-- ==== Sys2Proof/Laws/Memory.lean ====
section
/-! SUPPORT. The laws of a region: a read after a write, the canonical form, and the bounds. The read laws hold of every
list, canonical or not. -/

namespace Sys2Proof.Machine

variable {w : Nat}

@[simp] theorem Memory.read_cleared (a : Nat) : (Memory.cleared : Memory w).read a = 0 := rfl

theorem Memory.read_unlist (m : Memory w) (a b : Nat) :
    (m.unlist a).read b = if b = a then Memory.unlisted w else m.read b := by
  induction m with
  | nil => simp [Memory.unlist, Memory.read]
  | cons p m ih =>
    obtain ⟨k, x⟩ := p
    by_cases hk : k = a
    · subst hk
      by_cases hb : b = k
      · subst hb
        simp [Memory.unlist, ih]
      · simp [Memory.unlist, Memory.read, ih, hb, Ne.symm hb]
    · by_cases hb : k = b
      · subst hb
        simp [Memory.unlist, Memory.read, hk]
      · simp [Memory.unlist, Memory.read, hk, hb, ih]

theorem Memory.read_enlist (m : Memory w) (a b : Nat) (v : BitVec w) (h : ∀ p ∈ m, p.1 ≠ a) :
    (m.enlist a v).read b = if b = a then v else m.read b := by
  induction m with
  | nil => simp [Memory.enlist, Memory.read, eq_comm]
  | cons p m ih =>
    obtain ⟨k, x⟩ := p
    have hk : k ≠ a := h (k, x) (by simp)
    have ih' := ih fun q hq => h q (by simp [hq])
    by_cases hlt : a < k
    · simp [Memory.enlist, hlt, Memory.read, eq_comm]
    · by_cases hb : k = b
      · subst hb
        simp [Memory.enlist, hlt, Memory.read, hk]
      · simp [Memory.enlist, hlt, Memory.read, hb, ih']

theorem Memory.mem_unlist {m : Memory w} {a : Nat} {p : Nat × BitVec w} :
    p ∈ m.unlist a ↔ p ∈ m ∧ p.1 ≠ a := by
  induction m with
  | nil => simp [Memory.unlist]
  | cons q m ih =>
    obtain ⟨k, x⟩ := q
    by_cases hk : k = a
    · subst hk
      simp only [Memory.unlist, if_true, ih, List.mem_cons]
      constructor
      · exact fun ⟨h, hne⟩ => ⟨.inr h, hne⟩
      · rintro ⟨rfl | h, hne⟩
        · exact absurd rfl hne
        · exact ⟨h, hne⟩
    · simp only [Memory.unlist, if_neg hk, List.mem_cons, ih]
      constructor
      · rintro (rfl | ⟨h, hne⟩)
        · exact ⟨.inl rfl, hk⟩
        · exact ⟨.inr h, hne⟩
      · rintro ⟨rfl | h, hne⟩
        · exact .inl rfl
        · exact .inr ⟨h, hne⟩

theorem Memory.mem_enlist {m : Memory w} {a : Nat} {v : BitVec w} {p : Nat × BitVec w} :
    p ∈ m.enlist a v ↔ p = (a, v) ∨ p ∈ m := by
  induction m with
  | nil => simp [Memory.enlist]
  | cons q m ih =>
    obtain ⟨k, x⟩ := q
    by_cases hlt : a < k
    · simp [Memory.enlist, hlt]
    · simp only [Memory.enlist, if_neg hlt, List.mem_cons, ih]
      constructor
      · rintro (h | h | h)
        · exact .inr (.inl h)
        · exact .inl h
        · exact .inr (.inr h)
      · rintro (h | h | h)
        · exact .inr (.inl h)
        · exact .inl h
        · exact .inr (.inr h)

/-- A read after a write gives the value written at that address, and leaves every other address alone. -/
theorem Memory.read_write (m : Memory w) (a b : Nat) (v : BitVec w) :
    (m.write a v).read b = if b = a then v else m.read b := by
  unfold Memory.write
  split
  · next hv => rw [Memory.read_unlist, hv]
  · rw [Memory.read_enlist _ _ _ _ fun p hp => (Memory.mem_unlist.mp hp).2, Memory.read_unlist]
    by_cases h : b = a <;> simp [h]

@[simp] theorem Memory.read_write_same (m : Memory w) (a : Nat) (v : BitVec w) : (m.write a v).read a = v := by
  simp [Memory.read_write]

theorem Memory.read_write_ne (m : Memory w) {a b : Nat} (v : BitVec w) (h : b ≠ a) :
    (m.write a v).read b = m.read b := by
  simp [Memory.read_write, h]

theorem Memory.mem_write {m : Memory w} {a : Nat} {v : BitVec w} {p : Nat × BitVec w} (h : p ∈ m.write a v) :
    p = (a, v) ∧ v ≠ Memory.unlisted w ∨ p ∈ m := by
  unfold Memory.write at h
  split at h
  · exact .inr (Memory.mem_unlist.mp h).1
  · next hv =>
    rcases Memory.mem_enlist.mp h with h | h
    · exact .inl ⟨h, hv⟩
    · exact .inr (Memory.mem_unlist.mp h).1

theorem Memory.unlist_sorted {m : Memory w} (a : Nat) (h : m.Pairwise (fun p q => p.1 < q.1)) :
    (m.unlist a).Pairwise (fun p q => p.1 < q.1) := by
  induction m with
  | nil => exact h
  | cons q m ih =>
    obtain ⟨k, x⟩ := q
    obtain ⟨hk, hm⟩ := List.pairwise_cons.mp h
    by_cases hka : k = a
    · simpa [Memory.unlist, hka] using ih hm
    · simp only [Memory.unlist, if_neg hka]
      exact List.pairwise_cons.mpr ⟨fun p hp => hk p (Memory.mem_unlist.mp hp).1, ih hm⟩

theorem Memory.enlist_sorted {m : Memory w} (a : Nat) (v : BitVec w) (h : m.Pairwise (fun p q => p.1 < q.1))
    (ha : ∀ p ∈ m, p.1 ≠ a) : (m.enlist a v).Pairwise (fun p q => p.1 < q.1) := by
  induction m with
  | nil => simp [Memory.enlist]
  | cons q m ih =>
    obtain ⟨k, x⟩ := q
    obtain ⟨hk, hm⟩ := List.pairwise_cons.mp h
    have hka : k ≠ a := ha (k, x) (by simp)
    by_cases hlt : a < k
    · simp only [Memory.enlist, if_pos hlt]
      refine List.pairwise_cons.mpr ⟨fun p hp => ?_, h⟩
      rcases List.mem_cons.mp hp with rfl | hp
      · exact hlt
      · exact Nat.lt_trans hlt (hk p hp)
    · simp only [Memory.enlist, if_neg hlt]
      refine List.pairwise_cons.mpr ⟨fun p hp => ?_, ih hm fun q hq => ha q (by simp [hq])⟩
      rcases Memory.mem_enlist.mp hp with rfl | hp
      · show k < a
        omega
      · exact hk p hp

/-- A write keeps the canonical form. -/
theorem Memory.wf_write {m : Memory w} (a : Nat) (v : BitVec w) (h : m.wf) : (m.write a v).wf := by
  refine ⟨?_, fun p hp => ?_⟩
  · unfold Memory.write
    split
    · exact Memory.unlist_sorted a h.1
    · exact Memory.enlist_sorted a v (Memory.unlist_sorted a h.1) fun p hp => (Memory.mem_unlist.mp hp).2
  · rcases Memory.mem_write hp with ⟨rfl, hv⟩ | hp
    · exact hv
    · exact h.2 p hp

/-- A write inside a region keeps the region's bound. -/
theorem Memory.within_write {m : Memory w} {n a : Nat} (v : BitVec w) (h : m.within n) (ha : a < n) :
    (m.write a v).within n := by
  intro p hp
  rcases Memory.mem_write hp with ⟨rfl, -⟩ | hp
  · exact ha
  · exact h p hp

theorem Memory.wf_cleared : (Memory.cleared : Memory w).wf := ⟨.nil, fun _ h => nomatch h⟩

theorem Memory.within_cleared (n : Nat) : (Memory.cleared : Memory w).within n := fun _ h => nomatch h

theorem Memory.wf_writeFrom {m : Memory w} (a : Nat) (vs : List (BitVec w)) (h : m.wf) :
    (m.writeFrom a vs).wf := by
  induction vs generalizing m a with
  | nil => exact h
  | cons v vs ih => exact ih (a + 1) (Memory.wf_write a v h)

theorem Memory.within_writeFrom {m : Memory w} {n a : Nat} (vs : List (BitVec w)) (h : m.within n)
    (ha : a + vs.length ≤ n) : (m.writeFrom a vs).within n := by
  induction vs generalizing m a with
  | nil => exact h
  | cons v vs ih =>
    rw [List.length_cons] at ha
    exact ih (Memory.within_write v h (by omega)) (by omega)

theorem Memory.wf_writeImage {m : Memory w} (im : List (Nat × Int)) (h : m.wf) : (m.writeImage im).wf := by
  induction im generalizing m with
  | nil => exact h
  | cons e im ih => exact ih (Memory.wf_write e.1 _ h)

theorem Memory.within_writeImage {m : Memory w} {n : Nat} (im : List (Nat × Int)) (h : m.within n)
    (hi : ∀ e ∈ im, e.1 < n) : (m.writeImage im).within n := by
  induction im generalizing m with
  | nil => exact h
  | cons e im ih =>
    exact ih (Memory.within_write _ h (hi e (by simp))) fun q hq => hi q (by simp [hq])

/-- The memories of the reset state are in canonical form and inside their regions. -/
theorem reset_memories_wf :
    (State.reset.rom.wf ∧ State.reset.rom.within 256) ∧ (State.reset.ram.wf ∧ State.reset.ram.within 16) ∧
      (State.reset.stack.wf ∧ State.reset.stack.within 16) :=
  ⟨⟨Memory.wf_cleared, Memory.within_cleared _⟩, ⟨Memory.wf_cleared, Memory.within_cleared _⟩,
    ⟨Memory.wf_cleared, Memory.within_cleared _⟩⟩

/-- What a region reads as after a list of cells was written from `a` on. -/
theorem Memory.read_writeFrom (m : Memory w) (a b : Nat) (vs : List (BitVec w)) :
    (m.writeFrom a vs).read b =
      if h : a ≤ b ∧ b - a < vs.length then vs[b - a]'h.2 else m.read b := by
  induction vs generalizing m a with
  | nil => simp [Memory.writeFrom]
  | cons v vs ih =>
    rw [Memory.writeFrom, ih, Memory.read_write]
    by_cases hb : b = a
    · subst hb
      simp [show ¬ b + 1 ≤ b by omega]
    · by_cases hab : a ≤ b
      · have h1 : a + 1 ≤ b := by omega
        obtain ⟨d, rfl⟩ : ∃ d, b = a + 1 + d := ⟨b - (a + 1), by omega⟩
        have e1 : a + 1 + d - (a + 1) = d := by omega
        have e2 : a + 1 + d - a = d + 1 := by omega
        by_cases hd : d < vs.length
        · simp [e1, e2, hd, h1, hab]
        · simp [e1, e2, hd, hb]
      · simp [hab, hb, show ¬ a + 1 ≤ b by omega]

end Sys2Proof.Machine
end

