-- ==== Sys2Proof/Laws/State.lean ====
section
/-! SUPPORT. One lemma per field per update of State, each true by rfl: what an update writes, and that it writes nothing
else. -/

namespace Sys2Proof.Machine

variable (s : State)

/-! ## setAcc -/

@[simp] theorem State.setAcc_acc (v : Nibble) : (s.setAcc v).acc = v := rfl
@[simp] theorem State.setAcc_pc (v : Nibble) : (s.setAcc v).pc = s.pc := rfl
@[simp] theorem State.setAcc_ir (v : Nibble) : (s.setAcc v).ir = s.ir := rfl
@[simp] theorem State.setAcc_sp (v : Nibble) : (s.setAcc v).sp = s.sp := rfl
@[simp] theorem State.setAcc_z (v : Nibble) : (s.setAcc v).z = s.z := rfl
@[simp] theorem State.setAcc_c (v : Nibble) : (s.setAcc v).c = s.c := rfl
@[simp] theorem State.setAcc_state (v : Nibble) : (s.setAcc v).state = s.state := rfl
@[simp] theorem State.setAcc_rom (v : Nibble) : (s.setAcc v).rom = s.rom := rfl
@[simp] theorem State.setAcc_ram (v : Nibble) : (s.setAcc v).ram = s.ram := rfl
@[simp] theorem State.setAcc_stack (v : Nibble) : (s.setAcc v).stack = s.stack := rfl
@[simp] theorem State.setAcc_led (v : Nibble) : (s.setAcc v).led = s.led := rfl
@[simp] theorem State.setAcc_sw (v : Nibble) : (s.setAcc v).sw = s.sw := rfl
@[simp] theorem State.setAcc_out (v : Nibble) : (s.setAcc v).out = s.out := rfl
@[simp] theorem State.setAcc_resetDraws (v : Nibble) : (s.setAcc v).resetDraws = s.resetDraws := rfl

/-! ## setAccZ -/

@[simp] theorem State.setAccZ_acc (v : Nibble) : (s.setAccZ v).acc = v := rfl
@[simp] theorem State.setAccZ_pc (v : Nibble) : (s.setAccZ v).pc = s.pc := rfl
@[simp] theorem State.setAccZ_ir (v : Nibble) : (s.setAccZ v).ir = s.ir := rfl
@[simp] theorem State.setAccZ_sp (v : Nibble) : (s.setAccZ v).sp = s.sp := rfl
@[simp] theorem State.setAccZ_z (v : Nibble) : (s.setAccZ v).z = zeroFlag v := rfl
@[simp] theorem State.setAccZ_c (v : Nibble) : (s.setAccZ v).c = s.c := rfl
@[simp] theorem State.setAccZ_state (v : Nibble) : (s.setAccZ v).state = s.state := rfl
@[simp] theorem State.setAccZ_rom (v : Nibble) : (s.setAccZ v).rom = s.rom := rfl
@[simp] theorem State.setAccZ_ram (v : Nibble) : (s.setAccZ v).ram = s.ram := rfl
@[simp] theorem State.setAccZ_stack (v : Nibble) : (s.setAccZ v).stack = s.stack := rfl
@[simp] theorem State.setAccZ_led (v : Nibble) : (s.setAccZ v).led = s.led := rfl
@[simp] theorem State.setAccZ_sw (v : Nibble) : (s.setAccZ v).sw = s.sw := rfl
@[simp] theorem State.setAccZ_out (v : Nibble) : (s.setAccZ v).out = s.out := rfl
@[simp] theorem State.setAccZ_resetDraws (v : Nibble) : (s.setAccZ v).resetDraws = s.resetDraws := rfl

/-! ## setCarry -/

@[simp] theorem State.setCarry_acc (b : Bool) : (s.setCarry b).acc = s.acc := rfl
@[simp] theorem State.setCarry_pc (b : Bool) : (s.setCarry b).pc = s.pc := rfl
@[simp] theorem State.setCarry_ir (b : Bool) : (s.setCarry b).ir = s.ir := rfl
@[simp] theorem State.setCarry_sp (b : Bool) : (s.setCarry b).sp = s.sp := rfl
@[simp] theorem State.setCarry_z (b : Bool) : (s.setCarry b).z = s.z := rfl
@[simp] theorem State.setCarry_c (b : Bool) : (s.setCarry b).c = b := rfl
@[simp] theorem State.setCarry_state (b : Bool) : (s.setCarry b).state = s.state := rfl
@[simp] theorem State.setCarry_rom (b : Bool) : (s.setCarry b).rom = s.rom := rfl
@[simp] theorem State.setCarry_ram (b : Bool) : (s.setCarry b).ram = s.ram := rfl
@[simp] theorem State.setCarry_stack (b : Bool) : (s.setCarry b).stack = s.stack := rfl
@[simp] theorem State.setCarry_led (b : Bool) : (s.setCarry b).led = s.led := rfl
@[simp] theorem State.setCarry_sw (b : Bool) : (s.setCarry b).sw = s.sw := rfl
@[simp] theorem State.setCarry_out (b : Bool) : (s.setCarry b).out = s.out := rfl
@[simp] theorem State.setCarry_resetDraws (b : Bool) : (s.setCarry b).resetDraws = s.resetDraws := rfl

/-! ## jumpTo -/

@[simp] theorem State.jumpTo_acc (t : Byte) : (s.jumpTo t).acc = s.acc := rfl
@[simp] theorem State.jumpTo_pc (t : Byte) : (s.jumpTo t).pc = t := rfl
@[simp] theorem State.jumpTo_ir (t : Byte) : (s.jumpTo t).ir = s.ir := rfl
@[simp] theorem State.jumpTo_sp (t : Byte) : (s.jumpTo t).sp = s.sp := rfl
@[simp] theorem State.jumpTo_z (t : Byte) : (s.jumpTo t).z = s.z := rfl
@[simp] theorem State.jumpTo_c (t : Byte) : (s.jumpTo t).c = s.c := rfl
@[simp] theorem State.jumpTo_state (t : Byte) : (s.jumpTo t).state = s.state := rfl
@[simp] theorem State.jumpTo_rom (t : Byte) : (s.jumpTo t).rom = s.rom := rfl
@[simp] theorem State.jumpTo_ram (t : Byte) : (s.jumpTo t).ram = s.ram := rfl
@[simp] theorem State.jumpTo_stack (t : Byte) : (s.jumpTo t).stack = s.stack := rfl
@[simp] theorem State.jumpTo_led (t : Byte) : (s.jumpTo t).led = s.led := rfl
@[simp] theorem State.jumpTo_sw (t : Byte) : (s.jumpTo t).sw = s.sw := rfl
@[simp] theorem State.jumpTo_out (t : Byte) : (s.jumpTo t).out = s.out := rfl
@[simp] theorem State.jumpTo_resetDraws (t : Byte) : (s.jumpTo t).resetDraws = s.resetDraws := rfl

/-! ## skipOperand -/

@[simp] theorem State.skipOperand_acc : (s.skipOperand).acc = s.acc := rfl
@[simp] theorem State.skipOperand_pc : (s.skipOperand).pc = s.pc + 1 := rfl
@[simp] theorem State.skipOperand_ir : (s.skipOperand).ir = s.ir := rfl
@[simp] theorem State.skipOperand_sp : (s.skipOperand).sp = s.sp := rfl
@[simp] theorem State.skipOperand_z : (s.skipOperand).z = s.z := rfl
@[simp] theorem State.skipOperand_c : (s.skipOperand).c = s.c := rfl
@[simp] theorem State.skipOperand_state : (s.skipOperand).state = s.state := rfl
@[simp] theorem State.skipOperand_rom : (s.skipOperand).rom = s.rom := rfl
@[simp] theorem State.skipOperand_ram : (s.skipOperand).ram = s.ram := rfl
@[simp] theorem State.skipOperand_stack : (s.skipOperand).stack = s.stack := rfl
@[simp] theorem State.skipOperand_led : (s.skipOperand).led = s.led := rfl
@[simp] theorem State.skipOperand_sw : (s.skipOperand).sw = s.sw := rfl
@[simp] theorem State.skipOperand_out : (s.skipOperand).out = s.out := rfl
@[simp] theorem State.skipOperand_resetDraws : (s.skipOperand).resetDraws = s.resetDraws := rfl

/-! ## setLed -/

@[simp] theorem State.setLed_acc (v : Nibble) : (s.setLed v).acc = s.acc := rfl
@[simp] theorem State.setLed_pc (v : Nibble) : (s.setLed v).pc = s.pc := rfl
@[simp] theorem State.setLed_ir (v : Nibble) : (s.setLed v).ir = s.ir := rfl
@[simp] theorem State.setLed_sp (v : Nibble) : (s.setLed v).sp = s.sp := rfl
@[simp] theorem State.setLed_z (v : Nibble) : (s.setLed v).z = s.z := rfl
@[simp] theorem State.setLed_c (v : Nibble) : (s.setLed v).c = s.c := rfl
@[simp] theorem State.setLed_state (v : Nibble) : (s.setLed v).state = s.state := rfl
@[simp] theorem State.setLed_rom (v : Nibble) : (s.setLed v).rom = s.rom := rfl
@[simp] theorem State.setLed_ram (v : Nibble) : (s.setLed v).ram = s.ram := rfl
@[simp] theorem State.setLed_stack (v : Nibble) : (s.setLed v).stack = s.stack := rfl
@[simp] theorem State.setLed_led (v : Nibble) : (s.setLed v).led = v := rfl
@[simp] theorem State.setLed_sw (v : Nibble) : (s.setLed v).sw = s.sw := rfl
@[simp] theorem State.setLed_out (v : Nibble) : (s.setLed v).out = s.out := rfl
@[simp] theorem State.setLed_resetDraws (v : Nibble) : (s.setLed v).resetDraws = s.resetDraws := rfl

/-! ## setControl -/

@[simp] theorem State.setControl_acc (k : Control) : (s.setControl k).acc = s.acc := rfl
@[simp] theorem State.setControl_pc (k : Control) : (s.setControl k).pc = s.pc := rfl
@[simp] theorem State.setControl_ir (k : Control) : (s.setControl k).ir = s.ir := rfl
@[simp] theorem State.setControl_sp (k : Control) : (s.setControl k).sp = s.sp := rfl
@[simp] theorem State.setControl_z (k : Control) : (s.setControl k).z = s.z := rfl
@[simp] theorem State.setControl_c (k : Control) : (s.setControl k).c = s.c := rfl
@[simp] theorem State.setControl_state (k : Control) : (s.setControl k).state = k := rfl
@[simp] theorem State.setControl_rom (k : Control) : (s.setControl k).rom = s.rom := rfl
@[simp] theorem State.setControl_ram (k : Control) : (s.setControl k).ram = s.ram := rfl
@[simp] theorem State.setControl_stack (k : Control) : (s.setControl k).stack = s.stack := rfl
@[simp] theorem State.setControl_led (k : Control) : (s.setControl k).led = s.led := rfl
@[simp] theorem State.setControl_sw (k : Control) : (s.setControl k).sw = s.sw := rfl
@[simp] theorem State.setControl_out (k : Control) : (s.setControl k).out = s.out := rfl
@[simp] theorem State.setControl_resetDraws (k : Control) : (s.setControl k).resetDraws = s.resetDraws := rfl

/-! ## suspend -/

@[simp] theorem State.suspend_acc : (s.suspend).acc = s.acc := rfl
@[simp] theorem State.suspend_pc : (s.suspend).pc = s.pc := rfl
@[simp] theorem State.suspend_ir : (s.suspend).ir = s.ir := rfl
@[simp] theorem State.suspend_sp : (s.suspend).sp = s.sp := rfl
@[simp] theorem State.suspend_z : (s.suspend).z = s.z := rfl
@[simp] theorem State.suspend_c : (s.suspend).c = s.c := rfl
@[simp] theorem State.suspend_state : (s.suspend).state = .waitingForInput := rfl
@[simp] theorem State.suspend_rom : (s.suspend).rom = s.rom := rfl
@[simp] theorem State.suspend_ram : (s.suspend).ram = s.ram := rfl
@[simp] theorem State.suspend_stack : (s.suspend).stack = s.stack := rfl
@[simp] theorem State.suspend_led : (s.suspend).led = s.led := rfl
@[simp] theorem State.suspend_sw : (s.suspend).sw = s.sw := rfl
@[simp] theorem State.suspend_out : (s.suspend).out = s.out := rfl
@[simp] theorem State.suspend_resetDraws : (s.suspend).resetDraws = s.resetDraws := rfl

/-! ## emit -/

@[simp] theorem State.emit_acc (v : Nibble) : (s.emit v).acc = s.acc := rfl
@[simp] theorem State.emit_pc (v : Nibble) : (s.emit v).pc = s.pc := rfl
@[simp] theorem State.emit_ir (v : Nibble) : (s.emit v).ir = s.ir := rfl
@[simp] theorem State.emit_sp (v : Nibble) : (s.emit v).sp = s.sp := rfl
@[simp] theorem State.emit_z (v : Nibble) : (s.emit v).z = s.z := rfl
@[simp] theorem State.emit_c (v : Nibble) : (s.emit v).c = s.c := rfl
@[simp] theorem State.emit_state (v : Nibble) : (s.emit v).state = s.state := rfl
@[simp] theorem State.emit_rom (v : Nibble) : (s.emit v).rom = s.rom := rfl
@[simp] theorem State.emit_ram (v : Nibble) : (s.emit v).ram = s.ram := rfl
@[simp] theorem State.emit_stack (v : Nibble) : (s.emit v).stack = s.stack := rfl
@[simp] theorem State.emit_led (v : Nibble) : (s.emit v).led = s.led := rfl
@[simp] theorem State.emit_sw (v : Nibble) : (s.emit v).sw = s.sw := rfl
@[simp] theorem State.emit_out (v : Nibble) : (s.emit v).out = s.out ++ [v] := rfl
@[simp] theorem State.emit_resetDraws (v : Nibble) : (s.emit v).resetDraws = s.resetDraws := rfl

/-! ## writeRam -/

@[simp] theorem State.writeRam_acc (a v : Nibble) : (s.writeRam a v).acc = s.acc := rfl
@[simp] theorem State.writeRam_pc (a v : Nibble) : (s.writeRam a v).pc = s.pc := rfl
@[simp] theorem State.writeRam_ir (a v : Nibble) : (s.writeRam a v).ir = s.ir := rfl
@[simp] theorem State.writeRam_sp (a v : Nibble) : (s.writeRam a v).sp = s.sp := rfl
@[simp] theorem State.writeRam_z (a v : Nibble) : (s.writeRam a v).z = s.z := rfl
@[simp] theorem State.writeRam_c (a v : Nibble) : (s.writeRam a v).c = s.c := rfl
@[simp] theorem State.writeRam_state (a v : Nibble) : (s.writeRam a v).state = s.state := rfl
@[simp] theorem State.writeRam_rom (a v : Nibble) : (s.writeRam a v).rom = s.rom := rfl
@[simp] theorem State.writeRam_ram (a v : Nibble) : (s.writeRam a v).ram = s.ram.write a.toNat v := rfl
@[simp] theorem State.writeRam_stack (a v : Nibble) : (s.writeRam a v).stack = s.stack := rfl
@[simp] theorem State.writeRam_led (a v : Nibble) : (s.writeRam a v).led = s.led := rfl
@[simp] theorem State.writeRam_sw (a v : Nibble) : (s.writeRam a v).sw = s.sw := rfl
@[simp] theorem State.writeRam_out (a v : Nibble) : (s.writeRam a v).out = s.out := rfl
@[simp] theorem State.writeRam_resetDraws (a v : Nibble) : (s.writeRam a v).resetDraws = s.resetDraws := rfl

/-! ## writeRom -/

@[simp] theorem State.writeRom_acc (a v : Byte) : (s.writeRom a v).acc = s.acc := rfl
@[simp] theorem State.writeRom_pc (a v : Byte) : (s.writeRom a v).pc = s.pc := rfl
@[simp] theorem State.writeRom_ir (a v : Byte) : (s.writeRom a v).ir = s.ir := rfl
@[simp] theorem State.writeRom_sp (a v : Byte) : (s.writeRom a v).sp = s.sp := rfl
@[simp] theorem State.writeRom_z (a v : Byte) : (s.writeRom a v).z = s.z := rfl
@[simp] theorem State.writeRom_c (a v : Byte) : (s.writeRom a v).c = s.c := rfl
@[simp] theorem State.writeRom_state (a v : Byte) : (s.writeRom a v).state = s.state := rfl
@[simp] theorem State.writeRom_rom (a v : Byte) : (s.writeRom a v).rom = s.rom.write a.toNat v := rfl
@[simp] theorem State.writeRom_ram (a v : Byte) : (s.writeRom a v).ram = s.ram := rfl
@[simp] theorem State.writeRom_stack (a v : Byte) : (s.writeRom a v).stack = s.stack := rfl
@[simp] theorem State.writeRom_led (a v : Byte) : (s.writeRom a v).led = s.led := rfl
@[simp] theorem State.writeRom_sw (a v : Byte) : (s.writeRom a v).sw = s.sw := rfl
@[simp] theorem State.writeRom_out (a v : Byte) : (s.writeRom a v).out = s.out := rfl
@[simp] theorem State.writeRom_resetDraws (a v : Byte) : (s.writeRom a v).resetDraws = s.resetDraws := rfl

/-! ## countDraw -/

@[simp] theorem State.countDraw_acc : (s.countDraw).acc = s.acc := rfl
@[simp] theorem State.countDraw_pc : (s.countDraw).pc = s.pc := rfl
@[simp] theorem State.countDraw_ir : (s.countDraw).ir = s.ir := rfl
@[simp] theorem State.countDraw_sp : (s.countDraw).sp = s.sp := rfl
@[simp] theorem State.countDraw_z : (s.countDraw).z = s.z := rfl
@[simp] theorem State.countDraw_c : (s.countDraw).c = s.c := rfl
@[simp] theorem State.countDraw_state : (s.countDraw).state = s.state := rfl
@[simp] theorem State.countDraw_rom : (s.countDraw).rom = s.rom := rfl
@[simp] theorem State.countDraw_ram : (s.countDraw).ram = s.ram := rfl
@[simp] theorem State.countDraw_stack : (s.countDraw).stack = s.stack := rfl
@[simp] theorem State.countDraw_led : (s.countDraw).led = s.led := rfl
@[simp] theorem State.countDraw_sw : (s.countDraw).sw = s.sw := rfl
@[simp] theorem State.countDraw_out : (s.countDraw).out = s.out := rfl
@[simp] theorem State.countDraw_resetDraws : (s.countDraw).resetDraws = s.resetDraws + 1 := rfl

/-! ## softResetWith -/

@[simp] theorem State.softResetWith_acc (ir : Byte) (p : Config.StackOnReset) : (s.softResetWith ir p).acc = 0 := rfl
@[simp] theorem State.softResetWith_pc (ir : Byte) (p : Config.StackOnReset) : (s.softResetWith ir p).pc = 0 := rfl
@[simp] theorem State.softResetWith_ir (ir : Byte) (p : Config.StackOnReset) : (s.softResetWith ir p).ir = ir := rfl
@[simp] theorem State.softResetWith_sp (ir : Byte) (p : Config.StackOnReset) : (s.softResetWith ir p).sp = 0 := rfl
@[simp] theorem State.softResetWith_z (ir : Byte) (p : Config.StackOnReset) : (s.softResetWith ir p).z = false := rfl
@[simp] theorem State.softResetWith_c (ir : Byte) (p : Config.StackOnReset) : (s.softResetWith ir p).c = false := rfl
@[simp] theorem State.softResetWith_state (ir : Byte) (p : Config.StackOnReset) : (s.softResetWith ir p).state = .running := rfl
@[simp] theorem State.softResetWith_rom (ir : Byte) (p : Config.StackOnReset) : (s.softResetWith ir p).rom = s.rom := rfl
@[simp] theorem State.softResetWith_ram (ir : Byte) (p : Config.StackOnReset) : (s.softResetWith ir p).ram = Memory.cleared := rfl
@[simp] theorem State.softResetWith_stack (ir : Byte) (p : Config.StackOnReset) : (s.softResetWith ir p).stack = stackAfterReset p s.stack := rfl
@[simp] theorem State.softResetWith_led (ir : Byte) (p : Config.StackOnReset) : (s.softResetWith ir p).led = 0 := rfl
@[simp] theorem State.softResetWith_sw (ir : Byte) (p : Config.StackOnReset) : (s.softResetWith ir p).sw = 0 := rfl
@[simp] theorem State.softResetWith_out (ir : Byte) (p : Config.StackOnReset) : (s.softResetWith ir p).out = s.out := rfl
@[simp] theorem State.softResetWith_resetDraws (ir : Byte) (p : Config.StackOnReset) : (s.softResetWith ir p).resetDraws = s.resetDraws := rfl

/-! ## softReset -/

@[simp] theorem State.softReset_acc : (s.softReset).acc = 0 := rfl
@[simp] theorem State.softReset_pc : (s.softReset).pc = 0 := rfl
@[simp] theorem State.softReset_ir : (s.softReset).ir = Config.irOnReset s.resetDraws := rfl
@[simp] theorem State.softReset_sp : (s.softReset).sp = 0 := rfl
@[simp] theorem State.softReset_z : (s.softReset).z = false := rfl
@[simp] theorem State.softReset_c : (s.softReset).c = false := rfl
@[simp] theorem State.softReset_state : (s.softReset).state = .running := rfl
@[simp] theorem State.softReset_rom : (s.softReset).rom = s.rom := rfl
@[simp] theorem State.softReset_ram : (s.softReset).ram = Memory.cleared := rfl
@[simp] theorem State.softReset_stack : (s.softReset).stack = stackAfterReset Config.stackOnReset s.stack := rfl
@[simp] theorem State.softReset_led : (s.softReset).led = 0 := rfl
@[simp] theorem State.softReset_sw : (s.softReset).sw = 0 := rfl
@[simp] theorem State.softReset_out : (s.softReset).out = s.out := rfl
@[simp] theorem State.softReset_resetDraws : (s.softReset).resetDraws = s.resetDraws + 1 := rfl

/-! ## fetched -/

@[simp] theorem State.fetched_acc : (s.fetched).acc = s.acc := rfl
@[simp] theorem State.fetched_pc : (s.fetched).pc = s.pc + 1 := rfl
@[simp] theorem State.fetched_ir : (s.fetched).ir = s.readRom s.pc := rfl
@[simp] theorem State.fetched_sp : (s.fetched).sp = s.sp := rfl
@[simp] theorem State.fetched_z : (s.fetched).z = s.z := rfl
@[simp] theorem State.fetched_c : (s.fetched).c = s.c := rfl
@[simp] theorem State.fetched_state : (s.fetched).state = s.state := rfl
@[simp] theorem State.fetched_rom : (s.fetched).rom = s.rom := rfl
@[simp] theorem State.fetched_ram : (s.fetched).ram = s.ram := rfl
@[simp] theorem State.fetched_stack : (s.fetched).stack = s.stack := rfl
@[simp] theorem State.fetched_led : (s.fetched).led = s.led := rfl
@[simp] theorem State.fetched_sw : (s.fetched).sw = s.sw := rfl
@[simp] theorem State.fetched_out : (s.fetched).out = s.out := rfl
@[simp] theorem State.fetched_resetDraws : (s.fetched).resetDraws = s.resetDraws := rfl

/-! ## toggleSwitch -/

@[simp] theorem State.toggleSwitch_acc (i : Fin 4) : (s.toggleSwitch i).acc = s.acc := rfl
@[simp] theorem State.toggleSwitch_pc (i : Fin 4) : (s.toggleSwitch i).pc = s.pc := rfl
@[simp] theorem State.toggleSwitch_ir (i : Fin 4) : (s.toggleSwitch i).ir = s.ir := rfl
@[simp] theorem State.toggleSwitch_sp (i : Fin 4) : (s.toggleSwitch i).sp = s.sp := rfl
@[simp] theorem State.toggleSwitch_z (i : Fin 4) : (s.toggleSwitch i).z = s.z := rfl
@[simp] theorem State.toggleSwitch_c (i : Fin 4) : (s.toggleSwitch i).c = s.c := rfl
@[simp] theorem State.toggleSwitch_state (i : Fin 4) : (s.toggleSwitch i).state = s.state := rfl
@[simp] theorem State.toggleSwitch_rom (i : Fin 4) : (s.toggleSwitch i).rom = s.rom := rfl
@[simp] theorem State.toggleSwitch_ram (i : Fin 4) : (s.toggleSwitch i).ram = s.ram := rfl
@[simp] theorem State.toggleSwitch_stack (i : Fin 4) : (s.toggleSwitch i).stack = s.stack := rfl
@[simp] theorem State.toggleSwitch_led (i : Fin 4) : (s.toggleSwitch i).led = s.led := rfl
@[simp] theorem State.toggleSwitch_sw (i : Fin 4) : (s.toggleSwitch i).sw = s.sw ^^^ (1#4 <<< i.val) := rfl
@[simp] theorem State.toggleSwitch_out (i : Fin 4) : (s.toggleSwitch i).out = s.out := rfl
@[simp] theorem State.toggleSwitch_resetDraws (i : Fin 4) : (s.toggleSwitch i).resetDraws = s.resetDraws := rfl

/-! ## loadedWith -/

@[simp] theorem State.loadedWith_acc (ir : Byte) (code : List Byte) (image : List (Nat × Int)) : (s.loadedWith ir code image).acc = 0 := rfl
@[simp] theorem State.loadedWith_pc (ir : Byte) (code : List Byte) (image : List (Nat × Int)) : (s.loadedWith ir code image).pc = 0 := rfl
@[simp] theorem State.loadedWith_ir (ir : Byte) (code : List Byte) (image : List (Nat × Int)) : (s.loadedWith ir code image).ir = ir := rfl
@[simp] theorem State.loadedWith_sp (ir : Byte) (code : List Byte) (image : List (Nat × Int)) : (s.loadedWith ir code image).sp = 0 := rfl
@[simp] theorem State.loadedWith_z (ir : Byte) (code : List Byte) (image : List (Nat × Int)) : (s.loadedWith ir code image).z = false := rfl
@[simp] theorem State.loadedWith_c (ir : Byte) (code : List Byte) (image : List (Nat × Int)) : (s.loadedWith ir code image).c = false := rfl
@[simp] theorem State.loadedWith_state (ir : Byte) (code : List Byte) (image : List (Nat × Int)) : (s.loadedWith ir code image).state = .running := rfl
@[simp] theorem State.loadedWith_rom (ir : Byte) (code : List Byte) (image : List (Nat × Int)) : (s.loadedWith ir code image).rom = Memory.writeFrom Memory.cleared 0 code := rfl
@[simp] theorem State.loadedWith_ram (ir : Byte) (code : List Byte) (image : List (Nat × Int)) : (s.loadedWith ir code image).ram = Memory.writeImage Memory.cleared image := rfl
@[simp] theorem State.loadedWith_stack (ir : Byte) (code : List Byte) (image : List (Nat × Int)) : (s.loadedWith ir code image).stack = s.stack := rfl
@[simp] theorem State.loadedWith_led (ir : Byte) (code : List Byte) (image : List (Nat × Int)) : (s.loadedWith ir code image).led = 0 := rfl
@[simp] theorem State.loadedWith_sw (ir : Byte) (code : List Byte) (image : List (Nat × Int)) : (s.loadedWith ir code image).sw = 0 := rfl
@[simp] theorem State.loadedWith_out (ir : Byte) (code : List Byte) (image : List (Nat × Int)) : (s.loadedWith ir code image).out = s.out := rfl
@[simp] theorem State.loadedWith_resetDraws (ir : Byte) (code : List Byte) (image : List (Nat × Int)) : (s.loadedWith ir code image).resetDraws = s.resetDraws := rfl

end Sys2Proof.Machine
end

