-- ==== Sys2Proof/Laws/Ops.lean ====
section
/-! SUPPORT. What each shared operation can do, said once: cite these instead of unfolding. -/

namespace Sys2Proof.Machine

variable (s : State)

/-! ## Reads -/

theorem State.readRam_writeRam (a b v : Nibble) :
    (s.writeRam a v).readRam b = if b = a then v else s.readRam b := by
  simp [State.readRam, State.writeRam, Memory.read_write, BitVec.toNat_inj]

theorem State.readRom_writeRom (a b v : Byte) :
    (s.writeRom a v).readRom b = if b = a then v else s.readRom b := by
  simp [State.readRom, State.writeRom, Memory.read_write, BitVec.toNat_inj]

/-! ## The stack -/

theorem State.pushByte_full (v : Byte) (h : s.sp.val = 16) : s.pushByte v = s := by
  simp [State.pushByte, h]

/-- Pushing on a stack that is not full writes the cell at SP and raises SP by one. -/
theorem State.pushByte_room (v : Byte) (h : s.sp.val < 16) :
    s.pushByte v = { s with stack := s.stack.write s.sp.val v, sp := ⟨s.sp.val + 1, Nat.succ_lt_succ h⟩ } := by
  simp [State.pushByte, h]

theorem State.popByte_empty (h : s.sp.val = 0) : s.popByte = none := by
  simp [State.popByte, h]

/-- Popping a stack that is not empty answers the cell below SP and lowers SP by one. -/
theorem State.popByte_some {b : Byte} {t : State} (h : s.popByte = some (b, t)) :
    0 < s.sp.val ∧ b = s.readStack (s.sp.val - 1) ∧ t.sp.val = s.sp.val - 1 ∧ t = { s with sp := t.sp } := by
  unfold State.popByte at h
  split at h
  · next hp =>
    injection h with h
    injection h with hb ht
    subst ht
    exact ⟨hp, hb.symm, rfl, rfl⟩
  · exact nomatch h

/-- A push changes nothing but the stack and SP. -/
theorem State.pushByte_frame (v : Byte) :
    s.pushByte v = { s with stack := (s.pushByte v).stack, sp := (s.pushByte v).sp } := by
  unfold State.pushByte
  split <;> rfl

/-! ## The input suspension and the soft reset -/

/-- ResolveInput either ends the wait or changes nothing (40_cycle.md R117). -/
theorem State.resolveInput_cases (value : Int) :
    s.state = .waitingForInput ∧
        s.resolveInput value =
          { s with acc := toNibble value, z := zeroFlag (toNibble value),
                   ram := s.ram.write 14 (toNibble value), state := .running } ∨
      s.state ≠ .waitingForInput ∧ s.resolveInput value = s := by
  unfold State.resolveInput
  cases h : s.state with
  | waitingForInput => exact .inl ⟨rfl, rfl⟩
  | running => exact .inr ⟨by simp, rfl⟩
  | halted => exact .inr ⟨by simp, rfl⟩

theorem stackAfterReset_cases (p : Config.StackOnReset) (m : Memory 8) :
    stackAfterReset p m = m ∨ stackAfterReset p m = Memory.cleared := by
  cases p
  · exact .inl rfl
  · exact .inr rfl

/-! ## Flags and results -/

theorem zeroFlag_iff (v : Nibble) : zeroFlag v = true ↔ v = 0 := by simp [zeroFlag]

theorem toNibble_toNat (t : Int) : ((toNibble t).toNat : Int) = t % 16 := by
  simp [toNibble, BitVec.toNat_ofInt]
  omega

theorem carryFlag_iff (t : Int) : carryFlag t = true ↔ 15 < t := by simp [carryFlag]

theorem borrowFlag_iff (t : Int) : borrowFlag t = true ↔ t < 0 := by simp [borrowFlag]

@[simp] theorem lowNibble_widen (v : Nibble) : lowNibble (widen v) = v := by
  revert v; decide

end Sys2Proof.Machine
end

