-- ==== Sys2Proof/Laws/Exec.lean ====
section
/-! SUPPORT. Inversion of `exec`, said once: whatever instruction ran, it and the state it left are one of these cases.
Proofs about all instructions apply this lemma and never unfold a meaning. -/

namespace Sys2Proof.Machine

/-- To show `P i t` of an instruction that ran from `s` to `t`, show it of every instruction and the state its rule leaves.
CALL, PUSH, POP and RET have a case for the end of the stack and one for the rest; a branch has one case, in which PC
takes one of its two values. -/
theorem exec_cases {P : Instr → State → Prop} {i : Instr} {s t : State} (h : exec i s = .next t)
    (nop : ∀ n, P (.nop n) s)
    (ldaPort : P (.lda 14) s.suspend)
    (lda : ∀ n, n ≠ 14 → P (.lda n) (s.setAccZ (s.readRam n)))
    (ldi : ∀ n, P (.ldi n) (s.setAccZ n))
    (staPort : P (.sta 15) ((s.writeRam 15 s.acc).setLed s.acc))
    (sta : ∀ n, n ≠ 15 → P (.sta n) (s.writeRam n s.acc))
    (add : ∀ n, P (.add n)
      ((s.setAccZ (toNibble (exactSum s.acc (s.readRam n)))).setCarry (carryFlag (exactSum s.acc (s.readRam n)))))
    (sub : ∀ n, P (.sub n)
      ((s.setAccZ (toNibble (exactDifference s.acc (s.readRam n)))).setCarry
        (borrowFlag (exactDifference s.acc (s.readRam n)))))
    (and : ∀ n, P (.and n) (s.setAccZ (s.acc &&& s.readRam n)))
    (or : ∀ n, P (.or n) (s.setAccZ (s.acc ||| s.readRam n)))
    (xor : ∀ n, P (.xor n) (s.setAccZ (s.acc ^^^ s.readRam n)))
    (ldai : ∀ n, P (.ldai n) (s.setAccZ (s.readRam (s.readRam n))))
    (stai : ∀ n, P (.stai n) (s.writeRam (s.readRam n) s.acc))
    (jmp : ∀ x a, P (.jmp x a) (s.jumpTo a))
    (jz : ∀ x a, P (.jz x a) (s.jumpTo (if s.z then a else s.pc + 1)))
    (jc : ∀ x a, P (.jc x a) (s.jumpTo (if s.c then a else s.pc + 1)))
    (callFull : ∀ x a, s.sp.val = 16 → P (.call x a) (s.jumpTo a))
    (call : ∀ x a sp, s.sp.val < 16 → sp.val = s.sp.val + 1 →
      P (.call x a) { s with pc := a, sp := sp, stack := s.stack.write s.sp.val (s.pc + 1) })
    (hlt : P .hlt (s.setControl .halted))
    (rst : P .rst s.softReset)
    (out : P .out (s.emit s.acc))
    (not : P .not (s.setAccZ (~~~s.acc)))
    (pushFull : s.sp.val = 16 → P .push s)
    (push : ∀ sp, s.sp.val < 16 → sp.val = s.sp.val + 1 →
      P .push { s with sp := sp, stack := s.stack.write s.sp.val (widen s.acc) })
    (popEmpty : s.sp.val = 0 → P .pop s)
    (pop : ∀ sp, 0 < s.sp.val → sp.val = s.sp.val - 1 →
      P .pop { s with sp := sp, acc := lowNibble (s.readStack (s.sp.val - 1)) })
    (retEmpty : s.sp.val = 0 → P .ret s)
    (ret : ∀ sp, 0 < s.sp.val → sp.val = s.sp.val - 1 →
      P .ret { s with sp := sp, pc := s.readStack (s.sp.val - 1) })
    (extReserved7 : P .extReserved7 s)
    (extReserved8to15 : ∀ n, P (.extReserved8to15 n) s) : P i t := by
  have hsp := s.sp.isLt
  have next_inj : ∀ {a b : State}, (Host.Outcome.next a : Host.Outcome State Fault Refusal) = .next b → a = b :=
    fun h => by injection h
  cases i with
  | nop n => exact next_inj h ▸ nop n
  | lda n =>
    by_cases hn : n = 14
    · subst hn
      exact next_inj h ▸ ldaPort
    · rw [exec, execLda, if_neg hn] at h
      exact next_inj h ▸ lda n hn
  | ldi n => exact next_inj h ▸ ldi n
  | sta n =>
    by_cases hn : n = 15
    · subst hn
      exact next_inj h ▸ staPort
    · rw [exec, execSta, if_neg hn] at h
      exact next_inj h ▸ sta n hn
  | add n => exact next_inj h ▸ add n
  | sub n => exact next_inj h ▸ sub n
  | and n => exact next_inj h ▸ and n
  | or n => exact next_inj h ▸ or n
  | xor n => exact next_inj h ▸ xor n
  | ldai n => exact next_inj h ▸ ldai n
  | stai n => exact next_inj h ▸ stai n
  | jmp x a => exact next_inj h ▸ jmp x a
  | jz x a =>
    have e : s.branch s.z a = s.jumpTo (if s.z then a else s.pc + 1) := by cases hz : s.z <;> rfl
    rw [exec, execJz, e] at h
    exact next_inj h ▸ jz x a
  | jc x a =>
    have e : s.branch s.c a = s.jumpTo (if s.c then a else s.pc + 1) := by cases hc : s.c <;> rfl
    rw [exec, execJc, e] at h
    exact next_inj h ▸ jc x a
  | call x a =>
    by_cases hroom : s.sp.val < 16
    · rw [exec, execCall, State.pushByte_room s _ hroom] at h
      exact next_inj h ▸ call x a ⟨s.sp.val + 1, by omega⟩ hroom rfl
    · have hfull : s.sp.val = 16 := by omega
      rw [exec, execCall, State.pushByte_full s _ hfull] at h
      exact next_inj h ▸ callFull x a hfull
  | hlt => exact next_inj h ▸ hlt
  | rst => exact next_inj h ▸ rst
  | out => exact next_inj h ▸ out
  | not => exact next_inj h ▸ not
  | push =>
    by_cases hroom : s.sp.val < 16
    · rw [exec, execPush, State.pushByte_room s _ hroom] at h
      exact next_inj h ▸ push ⟨s.sp.val + 1, by omega⟩ hroom rfl
    · have hfull : s.sp.val = 16 := by omega
      rw [exec, execPush, State.pushByte_full s _ hfull] at h
      exact next_inj h ▸ pushFull hfull
  | pop =>
    by_cases hempty : s.sp.val = 0
    · rw [exec, execPop, State.popByte_empty s hempty] at h
      exact next_inj h ▸ popEmpty hempty
    · have hsome : 0 < s.sp.val := by omega
      simp only [exec, execPop, State.popByte, if_pos hsome] at h
      exact next_inj h ▸ pop ⟨s.sp.val - 1, by omega⟩ hsome rfl
  | ret =>
    by_cases hempty : s.sp.val = 0
    · rw [exec, execRet, State.popByte_empty s hempty] at h
      exact next_inj h ▸ retEmpty hempty
    · have hsome : 0 < s.sp.val := by omega
      simp only [exec, execRet, State.popByte, if_pos hsome] at h
      exact next_inj h ▸ ret ⟨s.sp.val - 1, by omega⟩ hsome rfl
  | extReserved7 => exact next_inj h ▸ extReserved7
  | extReserved8to15 n => exact next_inj h ▸ extReserved8to15 n

end Sys2Proof.Machine
end

