-- ==== Sys2Proof/Laws/PerInstr.lean ====
section
/-! SUPPORT. A family of lemmas, one per constructor of Instr: the length of its encoding (30_encoding.md R70). -/

namespace Sys2Proof.Laws

/-- Two bytes for JMP, JZ, JC and CALL, one for every other instruction (30_encoding.md R70). -/
def encodedLength : Instr → Nat
  | .jmp _ _ | .jz _ _ | .jc _ _ | .call _ _ => 2
  | .nop _ | .lda _ | .ldi _ | .sta _ | .add _ | .sub _ | .and _ | .or _ | .xor _ | .ldai _ | .stai _ => 1
  | .hlt | .rst | .out | .not | .push | .pop | .ret | .extReserved7 | .extReserved8to15 _ => 1

def EncodedLength.Statement (i : Instr) : Prop := (encode i).length = encodedLength i

theorem EncodedLength.nop (n : Nibble) : EncodedLength.Statement (.nop n) := rfl
theorem EncodedLength.lda (n : Nibble) : EncodedLength.Statement (.lda n) := rfl
theorem EncodedLength.ldi (n : Nibble) : EncodedLength.Statement (.ldi n) := rfl
theorem EncodedLength.sta (n : Nibble) : EncodedLength.Statement (.sta n) := rfl
theorem EncodedLength.add (n : Nibble) : EncodedLength.Statement (.add n) := rfl
theorem EncodedLength.sub (n : Nibble) : EncodedLength.Statement (.sub n) := rfl
theorem EncodedLength.and (n : Nibble) : EncodedLength.Statement (.and n) := rfl
theorem EncodedLength.or (n : Nibble) : EncodedLength.Statement (.or n) := rfl
theorem EncodedLength.xor (n : Nibble) : EncodedLength.Statement (.xor n) := rfl
theorem EncodedLength.ldai (n : Nibble) : EncodedLength.Statement (.ldai n) := rfl
theorem EncodedLength.stai (n : Nibble) : EncodedLength.Statement (.stai n) := rfl
theorem EncodedLength.jmp (x : Nibble) (t : Byte) : EncodedLength.Statement (.jmp x t) := rfl
theorem EncodedLength.jz (x : Nibble) (t : Byte) : EncodedLength.Statement (.jz x t) := rfl
theorem EncodedLength.jc (x : Nibble) (t : Byte) : EncodedLength.Statement (.jc x t) := rfl
theorem EncodedLength.call (x : Nibble) (t : Byte) : EncodedLength.Statement (.call x t) := rfl
theorem EncodedLength.hlt : EncodedLength.Statement .hlt := rfl
theorem EncodedLength.rst : EncodedLength.Statement .rst := rfl
theorem EncodedLength.out : EncodedLength.Statement .out := rfl
theorem EncodedLength.not : EncodedLength.Statement .not := rfl
theorem EncodedLength.push : EncodedLength.Statement .push := rfl
theorem EncodedLength.pop : EncodedLength.Statement .pop := rfl
theorem EncodedLength.ret : EncodedLength.Statement .ret := rfl
theorem EncodedLength.extReserved7 : EncodedLength.Statement .extReserved7 := rfl
theorem EncodedLength.extReserved8to15 (s : Nibble) : EncodedLength.Statement (.extReserved8to15 s) := rfl

end Sys2Proof.Laws
end

