-- ==== Sys2Proof/Laws/Step.lean ====
section
/-! SUPPORT. Fetch, Execute, Cycle and step by control state (40_cycle.md R119). -/

namespace Sys2Proof.Machine

variable {s : State}

theorem State.fetch_halted (h : s.state = .halted) : s.fetch = s := by simp [State.fetch, h]

theorem State.fetch_of_not_halted (h : s.state ≠ .halted) : s.fetch = s.fetched := by
  unfold State.fetch
  cases hs : s.state <;> simp_all

theorem State.execute_running (h : s.state = .running) : s.execute = exec s.currentInstr s := by
  simp [State.execute, h]

theorem State.execute_stopped (h : s.state ≠ .running) : s.execute = .next s := by
  unfold State.execute
  cases hs : s.state <;> simp_all

/-- A step in `Running` runs the instruction that Fetch brought into IR. -/
theorem step_running (h : s.state = .running) : step s = exec s.fetched.currentInstr s.fetched := by
  have hf : s.fetch = s.fetched := by simp [State.fetch, h]
  simp [step, State.cycle, h, hf, State.execute]

/-- A step in `WaitingForInput` or `Halted` changes nothing. -/
theorem step_stopped (h : s.state ≠ .running) : step s = .next s := by
  unfold step State.cycle
  cases hs : s.state <;> simp_all

/-! ## Runs of several steps -/

theorem core_run_zero (s : State) : Sys2Proof.core.run 0 s = .next s := rfl

/-- A run of k + 1 steps of any machine is a step and a run of k steps. -/
theorem run_succ (M : Host.Core) {k : Nat} {s t : M.State} (h : M.step s = .next t) : M.run (k + 1) s = M.run k t := by
  rw [Host.Core.run, h]

theorem core_run_succ {k : Nat} {t : State} (h : step s = .next t) :
    Sys2Proof.core.run (k + 1) s = Sys2Proof.core.run k t :=
  run_succ Sys2Proof.core h

end Sys2Proof.Machine
end

