-- ==== Sys2Proof/Tests/Slice0.lean ====
section
/-! SUPPORT. Tests: words written out from the encoding tables (30_encoding.md R71 to R76), the smoke test of WellFormed,
one step or one instruction at a time from the spec's own vectors (95_test_vectors.md, named in each comment), and for each
obligation with hypotheses a state and operands that meet them together. -/

namespace Sys2Proof.Tests

open Sys2Proof Sys2Proof.Machine

/-! ## Helpers -/

/-- Does the outcome answer a next state with this property? -/
def nextIs (o : Host.Outcome State Fault Refusal) (p : State → Bool) : Bool :=
  match o with
  | .next t => p t
  | .fault _ => false
  | .refused _ => false

/-- Is the outcome a refusal for this reason? -/
def refusedFor (o : Host.Outcome State Fault Refusal) (r : Refusal) : Bool :=
  match o with
  | .next _ => false
  | .fault _ => false
  | .refused r' => decide (r' = r)

/-- The reset state with these bytes in ROM from address `a` on, and PC at `a`. -/
def at_ (a : Byte) (bytes : List Byte) : State :=
  { State.reset with pc := a, rom := Memory.writeFrom [] a.toNat bytes }

/-! ## WellFormed refuses an ill-formed term, and takes the bounds of the range -/

theorem test_wellFormed_refuses_sub_opcode_7 : WellFormed (.extReserved8to15 7) = false := by decide
theorem test_wellFormed_takes_sub_opcode_8 : WellFormed (.extReserved8to15 8) = true := by decide
theorem test_wellFormed_takes_sub_opcode_15 : WellFormed (.extReserved8to15 15) = true := by decide

/-! ## Decoding, every constructor, from words written out bit by bit -/

theorem test_decode_nop : decode [0b00001111#8] = .instr (.nop 15) [] := by decide
theorem test_decode_lda : decode [0b00011110#8] = .instr (.lda 14) [] := by decide
theorem test_decode_ldi : decode [0b00100101#8] = .instr (.ldi 5) [] := by decide
theorem test_decode_sta : decode [0b00111111#8] = .instr (.sta 15) [] := by decide
theorem test_decode_add : decode [0b01000001#8] = .instr (.add 1) [] := by decide
theorem test_decode_sub : decode [0b01010010#8] = .instr (.sub 2) [] := by decide
theorem test_decode_and : decode [0b01100011#8] = .instr (.and 3) [] := by decide
theorem test_decode_or : decode [0b01110100#8] = .instr (.or 4) [] := by decide
theorem test_decode_xor : decode [0b10001000#8] = .instr (.xor 8) [] := by decide
theorem test_decode_ldai : decode [0b10010000#8] = .instr (.ldai 0) [] := by decide
theorem test_decode_stai : decode [0b10100001#8] = .instr (.stai 1) [] := by decide
theorem test_decode_jmp : decode [0b10110111#8, 0b01000000#8, 0#8] = .instr (.jmp 7 0x40) [0] := by decide
theorem test_decode_jz : decode [0b11000000#8, 0b00000110#8] = .instr (.jz 0 6) [] := by decide
theorem test_decode_jc : decode [0b11010000#8, 0b00100000#8] = .instr (.jc 0 0x20) [] := by decide
theorem test_decode_call : decode [0b11100000#8, 0b11001000#8] = .instr (.call 0 200) [] := by decide
theorem test_decode_hlt : decode [0b11110000#8] = .instr .hlt [] := by decide
theorem test_decode_rst : decode [0b11110001#8] = .instr .rst [] := by decide
theorem test_decode_out : decode [0b11110010#8] = .instr .out [] := by decide
theorem test_decode_not : decode [0b11110011#8] = .instr .not [] := by decide
theorem test_decode_push : decode [0b11110100#8] = .instr .push [] := by decide
theorem test_decode_pop : decode [0b11110101#8] = .instr .pop [] := by decide
theorem test_decode_ret : decode [0b11110110#8] = .instr .ret [] := by decide
theorem test_decode_extReserved7 : decode [0b11110111#8] = .instr .extReserved7 [] := by decide
theorem test_decode_extReserved8 : decode [0b11111000#8] = .instr (.extReserved8to15 8) [] := by decide
theorem test_decode_extReserved15 : decode [0b11111111#8] = .instr (.extReserved8to15 15) [] := by decide
theorem test_decode_nothing : decode [] = .noOpcodeByte := by decide
theorem test_decode_cut_short : decode [0xC0] = .noOperandByte := by decide

/-- 30_encoding.md R104: JZ 6 is 0xC0 0x06; the table's number has the opcode byte lowest. -/
theorem test_decodeTableWord_jz : decodeTableWord 16 0x06C0 = some (.jz 0 6) := by decide

/-- The operand byte is 0 where the table's row has no bits for it. -/
theorem test_decodeTableWord_jmp_short : decodeTableWord 8 0xB0 = some (.jmp 0 0) := by decide

theorem test_encode_call : encode (.call 0 255) = [0xE0, 0xFF] := by decide

/-! ## Data movement (V3, V5, V6, V7, V9, V10) -/

theorem test_nop : step (at_ 4 [0x07]) = .next { at_ 4 [0x07] with pc := 5, ir := 0x07 } := by rfl
theorem test_lda_zero :
    nextIs (exec (.lda 3) { State.reset with acc := 1, c := true })
      (fun t => t.acc == 0 && t.z && t.c) = true := by decide
theorem test_lda_port_waits :
    nextIs (step { at_ 0 [0x1E] with acc := 5, ram := [(14, 8)] })
      (fun t => t.state == .waitingForInput && t.pc == 1 && t.acc == 5 && !t.z) = true := by decide
theorem test_lda_output_port :
    nextIs (exec (.lda 15) { State.reset with ram := [(15, 6)], led := 2 })
      (fun t => t.acc == 6 && t.led == 2 && t.state == .running) = true := by decide
theorem test_ldi_zero : nextIs (exec (.ldi 0) { State.reset with c := true }) (fun t => t.z && t.c) = true := by decide
theorem test_sta_output_port :
    nextIs (exec (.sta 15) { State.reset with acc := 9 }) (fun t => t.ram == [(15, 9)] && t.led == 9) = true := by
  decide
theorem test_sta_input_port :
    nextIs (exec (.sta 14) { State.reset with acc := 4, led := 1 })
      (fun t => t.ram == [(14, 4)] && t.led == 1 && t.state == .running) = true := by decide

/-! ## ALU (V20, V21, V27, V28, V33, V37, V39) -/

/-- ACC = a, RAM[1] = b, C before = c. -/
def alu (a b : Nibble) (c : Bool) : State := { State.reset with acc := a, ram := Memory.write [] 1 b, c := c }

theorem test_add_carries : nextIs (exec (.add 1) (alu 8 8 false)) (fun t => t.acc == 0 && t.z && t.c) = true := by
  decide
theorem test_add_ignores_old_carry :
    nextIs (exec (.add 1) (alu 15 0 true)) (fun t => t.acc == 15 && !t.z && !t.c) = true := by decide
theorem test_sub_borrows : nextIs (exec (.sub 1) (alu 3 5 false)) (fun t => t.acc == 14 && !t.z && t.c) = true := by
  decide
theorem test_sub_largest_borrow : nextIs (exec (.sub 1) (alu 0 15 false)) (fun t => t.acc == 1 && t.c) = true := by
  decide
theorem test_and_keeps_carry : nextIs (exec (.and 1) (alu 0xC 0xA true)) (fun t => t.acc == 8 && t.c) = true := by
  decide
theorem test_or_zero : nextIs (exec (.or 1) (alu 0 0 true)) (fun t => t.acc == 0 && t.z && t.c) = true := by decide
theorem test_xor_equal : nextIs (exec (.xor 1) (alu 7 7 true)) (fun t => t.acc == 0 && t.z && t.c) = true := by decide

/-! ## Indirect (V50, V52, V56, V57) -/

theorem test_ldai :
    nextIs (exec (.ldai 0) { State.reset with ram := [(0, 3), (3, 7)] }) (fun t => t.acc == 7) = true := by decide
theorem test_ldai_input_port :
    nextIs (exec (.ldai 0) { State.reset with ram := [(0, 14), (14, 5)] })
      (fun t => t.acc == 5 && t.state == .running) = true := by decide
theorem test_stai_output_port :
    nextIs (exec (.stai 0) { State.reset with ram := [(0, 15)], acc := 6 })
      (fun t => t.ram == [(0, 15), (15, 6)] && t.led == 0) = true := by decide
theorem test_stai_own_pointer :
    nextIs (exec (.stai 1) { State.reset with ram := [(1, 1)], acc := 9 }) (fun t => t.ram == [(1, 9)]) = true := by
  decide

/-! ## Control transfer (V61, V62, V66, V64, V67, V68, V69, V72) -/

theorem test_jmp_nonzero_nibble : nextIs (step (at_ 0x10 [0xB7, 0x40])) (fun t => t.pc == 0x40) = true := by decide
theorem test_jmp_operand_wraps :
    nextIs (step { State.reset with pc := 255, rom := [(0, 0x33), (255, 0xB0)] }) (fun t => t.pc == 0x33) = true := by
  decide
theorem test_jz_taken : nextIs (step { at_ 2 [0xC0, 6] with z := true }) (fun t => t.pc == 6) = true := by decide
theorem test_jz_not_taken_wraps : nextIs (step (at_ 254 [0xC0, 0x80])) (fun t => t.pc == 0) = true := by decide
theorem test_jc_taken : nextIs (step { at_ 0 [0xD0, 0x20] with c := true }) (fun t => t.pc == 0x20) = true := by decide
theorem test_jc_not_taken : nextIs (step { at_ 0 [0xD0, 0x20] with z := true }) (fun t => t.pc == 2) = true := by decide
theorem test_call :
    nextIs (step (at_ 0x20 [0xE0, 0x50]))
      (fun t => t.pc == 0x50 && t.sp.val == 1 && t.stack == [(0, 0x22)]) = true := by decide
theorem test_call_full :
    nextIs (step { at_ 0x20 [0xE0, 0x50] with sp := 16, stack := [(15, 0x99)] })
      (fun t => t.pc == 0x50 && t.sp.val == 16 && t.stack == [(15, 0x99)]) = true := by decide

/-! ## Extended group (V80, V82, V83, V84, V87, V88, V91, V90, V92, V93, V95) -/

theorem test_hlt : nextIs (step (at_ 4 [0xF0])) (fun t => t.state == .halted && t.pc == 5) = true := by decide
theorem test_rst :
    nextIs (step { at_ 2 [0xF1] with acc := 7, sp := 2, z := true, c := true, ram := [(2, 7)], led := 7, sw := 5, out := [7] })
      (fun t => t.acc == 0 && t.pc == 0 && t.sp.val == 0 && !t.z && !t.c && t.ram == [] && t.led == 0 && t.sw == 0 &&
        t.rom == [(2, 0xF1)] && t.out == [7] && t.state == .running) = true := by decide
theorem test_out : exec .out { State.reset with acc := 5, out := [1] } = .next { State.reset with acc := 5, out := [1, 5] } := by
  rfl
theorem test_not : nextIs (exec .not { State.reset with acc := 15, c := true }) (fun t => t.acc == 0 && t.z && t.c) = true := by
  decide
theorem test_push :
    nextIs (exec .push { State.reset with acc := 5 }) (fun t => t.stack == [(0, 5)] && t.sp.val == 1) = true := by decide
theorem test_push_full : exec .push { State.reset with acc := 5, sp := 16 } = .next { State.reset with acc := 5, sp := 16 } := by
  rfl
theorem test_pop_return_address :
    nextIs (exec .pop { State.reset with stack := [(0, 0x22)], sp := 1 })
      (fun t => t.acc == 2 && t.sp.val == 0 && !t.z && t.stack == [(0, 0x22)]) = true := by decide
theorem test_pop_empty : exec .pop { State.reset with acc := 3 } = .next { State.reset with acc := 3 } := by rfl
theorem test_ret :
    nextIs (step { at_ 7 [0xF6] with stack := [(0, 0x22)], sp := 1 }) (fun t => t.pc == 0x22 && t.sp.val == 0) = true := by
  decide
theorem test_ret_empty : nextIs (step (at_ 7 [0xF6])) (fun t => t.pc == 8 && t.sp.val == 0) = true := by decide
theorem test_extReserved7 : step (at_ 7 [0xF7]) = .next { at_ 7 [0xF7] with pc := 8, ir := 0xF7 } := by rfl
theorem test_extReserved9 : step (at_ 7 [0xF9]) = .next { at_ 7 [0xF9] with pc := 8, ir := 0xF9 } := by rfl

/-! ## Host operations (V102, V103, V105, V109, V111, V116) -/

theorem test_resolveInput_negative :
    nextIs (perform (.resolveInput (-1)) { State.reset with state := .waitingForInput })
      (fun t => t.acc == 15 && t.ram == [(14, 15)] && !t.z && t.state == .running) = true := by decide
theorem test_resolveInput_ignored : perform (.resolveInput 7) State.reset = .next State.reset := by rfl
theorem test_fetch_while_waiting :
    nextIs (perform .fetch { at_ 1 [0x25] with state := .waitingForInput })
      (fun t => t.ir == 0x25 && t.pc == 2 && t.state == .waitingForInput) = true := by decide
theorem test_loadProgram :
    nextIs (perform (.loadProgram [0xF0] [(15, 7), (14, 2)]) { State.reset with led := 5, sw := 3, stack := [(0, 9)] })
      (fun t => t.rom == [(0, 0xF0)] && t.ram == [(14, 2), (15, 7)] && t.led == 0 && t.sw == 0 && t.stack == [(0, 9)]) = true := by
  decide
theorem test_loadProgram_too_long :
    refusedFor (perform (.loadProgram (List.replicate 257 0) []) State.reset) .codeTooLong = true := by
  have h : 256 < (List.replicate 257 (0 : Byte)).length := by rw [List.length_replicate]; decide
  rw [perform, State.loadProgram, if_pos h]
  rfl
theorem test_toggleSwitch : perform (.toggleSwitch 2) State.reset = .next { State.reset with sw := 4 } := by rfl
theorem test_observe_ram : observe (.ram 3) { State.reset with ram := [(3, 7)] } = .ok (.number 7) := by rfl

/-! ## The interface of Step.lean -/

theorem test_withFetchWord_runs :
    nextIs (step (State.reset.withFetchWord 16 0x06B0)) (fun t => t.pc == 6) = true := by decide

/-! ## The assembler (S6, S8, S13, S14, S15, P2) -/

theorem test_assemble_data :
    assemble ['.','d','a','t','a','\n','b','u','f',':',' ','3',' ','4',' ','5','\n','.','c','o','d','e','\n','L','D','A',' ','[','0',']']
      = .ok [0x10] [(0, 3), (1, 4), (2, 5)] := by decide
theorem test_assemble_invalid_operand :
    (match assemble ['L','D','I',' ','1','\n','A','D','D',' ','[','b','a','n','a','n','a',']'] with
      | .invalidOperand _ line => decide (line = 1)
      | _ => false) = true := by decide
theorem test_assemble_truncates :
    assemble ['l','d','i',' ','2','0',';','x','\r','\n','J','M','P',' ','2','0','0','\n','A','D','D'] =
      .ok [0x24, 0xB0, 0xC8, 0x40] [] := by decide
theorem test_assemble_labels :
    assemble ['J','Z',' ','d','\n','J','M','P',' ','l','\n','l',':','\n','d',':',' ','H','L','T'] =
      .ok [0xC0, 4, 0xB0, 4, 0xF0] [] := by decide
theorem test_assemble_outside_spec : assemble ['L','D','I',' ','0','x','1','0'] = .outsideSpec .operandNumeral := by decide

/-! ## Witnesses: the hypotheses of each obligation that has some, met together -/

theorem witness_DecodeOfEncodeIsTheInstruction :
    WellFormed (.extReserved8to15 8) = true ∧ WellFormed (.extReserved8to15 15) = true ∧ WellFormed (.jmp 3 7) = true := by
  decide

theorem witness_EncodeOfDecodedIsTheBytes : decode [0xB7, 0x40, 0xF0] = .instr (.jmp 7 0x40) [0xF0] := by decide

theorem witness_StepRunsTheDecodedInstruction :
    (at_ 255 [0x25]).state = .running ∧
      decode [(at_ 255 [0x25]).readRom (at_ 255 [0x25]).pc, (at_ 255 [0x25]).readRom ((at_ 255 [0x25]).pc + 1)] =
        .instr (.ldi 5) [0] := by decide

theorem witness_PlacedWordRunsNext : decodeTableWord 16 0x06B7 = some (.jmp 7 6) := by decide

theorem witness_LdaLoadsOrSuspends : (13 : Nibble) ≠ 14 ∧ (15 : Nibble) ≠ 14 := by decide

theorem witness_JmpTakesItsTarget :
    ({ at_ 255 [0x40] with ir := 0xB7 } : State).state = .running ∧
      ({ at_ 255 [0x40] with ir := 0xB7 } : State).ir = 0xB#4 ++ 7#4 := by decide

theorem witness_JzJumpsOnZero :
    ({ at_ 3 [6] with ir := 0xC0, z := true } : State).state = .running ∧
      ({ at_ 3 [6] with ir := 0xC0, z := true } : State).ir = 0xC#4 ++ 0#4 := by decide

theorem witness_JcJumpsOnCarry :
    ({ at_ 3 [6] with ir := 0xD0, c := true } : State).state = .running ∧
      ({ at_ 3 [6] with ir := 0xD0, c := true } : State).ir = 0xD#4 ++ 0#4 := by decide

theorem witness_CallPushesAndJumps : ({ at_ 255 [0x50] with ir := 0xEF } : State).ir = 0xE#4 ++ 15#4 := by decide

theorem witness_HltHalts : ({ at_ 4 [0xF0] with state := .halted } : State).state = .halted := by decide

theorem witness_PushStoresAcc_full : ({ State.reset with sp := 16 } : State).sp.val = 16 := by decide
theorem witness_PushStoresAcc_room :
    State.reset.sp.val < 16 ∧ ({ State.reset with sp := 15 } : State).sp.val < 16 := by decide

theorem witness_PopLoadsTheLowNibble_empty : State.reset.sp.val = 0 := by decide
theorem witness_PopLoadsTheLowNibble_some :
    0 < ({ State.reset with sp := 1 } : State).sp.val ∧ 0 < ({ State.reset with sp := 16 } : State).sp.val := by decide

theorem witness_RetPopsIntoPc_empty : ({ at_ 7 [0xF6] with sp := 0 } : State).sp.val = 0 := by decide
theorem witness_RetPopsIntoPc_some :
    0 < ({ at_ 7 [0xF6] with sp := 1 } : State).sp.val ∧ 0 < ({ at_ 7 [0xF6] with sp := 16 } : State).sp.val := by decide

theorem witness_ReservedBytesChangeNothing : 0xF7 ≤ (0xF7 : Byte).toNat ∧ 0xF7 ≤ (0xFF : Byte).toNat := by decide

theorem witness_FetchLoadsIrUnlessHalted :
    ({ State.reset with state := .halted } : State).state = .halted ∧
      (at_ 255 [0x25]).state ≠ .halted ∧ ({ at_ 255 [0x25] with state := .waitingForInput } : State).state ≠ .halted := by
  decide

theorem witness_ExecuteIsGated :
    ({ State.reset with state := .halted } : State).state = .halted ∧
      ({ State.reset with state := .waitingForInput } : State).state = .waitingForInput := by decide

theorem witness_CycleIsFetchThenExecute :
    State.reset.state = .running ∧ ({ State.reset with state := .waitingForInput } : State).state ≠ .running ∧
      ({ State.reset with state := .halted } : State).state ≠ .running := by decide

theorem witness_ResolveInputCompletesTheLda :
    State.reset.state ≠ .waitingForInput ∧
      ({ State.reset with state := .waitingForInput } : State).state = .waitingForInput := by decide

theorem witness_LoadProgramLoadsCodeAndImage_long : 256 < (List.replicate 257 (0 : Byte)).length := by
  rw [List.length_replicate]; decide
theorem witness_LoadProgramLoadsCodeAndImage_both_grounds :
    256 < (List.replicate 257 (0 : Byte)).length ∧ ∃ e ∈ [((16 : Nat), (0 : Int))], 16 ≤ e.1 := by
  rw [List.length_replicate]; decide
theorem witness_LoadProgramLoadsCodeAndImage_offset :
    (List.replicate 256 (0 : Byte)).length ≤ 256 ∧ ∃ e ∈ [((16 : Nat), (0 : Int))], 16 ≤ e.1 := by
  rw [List.length_replicate]; decide
theorem witness_LoadProgramLoadsCodeAndImage_loads :
    (List.replicate 256 (0 : Byte)).length ≤ 256 ∧ (∀ e ∈ [((0 : Nat), (7 : Int)), (15, -1)], e.1 < 16) ∧
      ([((0 : Nat), (7 : Int)), (15, -1)].map Prod.fst).Nodup := by
  rw [List.length_replicate]; decide

theorem witness_AccessorsAnswerInsideTheirRegion :
    observe (.rom 255) State.reset = .ok (.number 0) ∧ observe (.rom 256) State.reset = .error .outOfRegion := ⟨rfl, rfl⟩

theorem witness_ControlStateChangesOnlyAsTabled :
    perform (.resolveInput 7) State.reset = .next State.reset ∧
      perform .cycle (at_ 0 [0x1E]) = .next { at_ 0 [0x1E] with pc := 1, ir := 0x1E, state := .waitingForInput } ∧
      perform .cycle (at_ 0 [0xF0]) = .next { at_ 0 [0xF0] with pc := 1, ir := 0xF0, state := .halted } :=
  ⟨rfl, rfl, rfl⟩

theorem witness_FlagsFollowTheFlagTable :
    exec (.add 1) (alu 8 8 false) = .next { alu 8 8 false with acc := 0, z := true, c := true } ∧
      exec (.lda 14) State.reset = .next { State.reset with state := .waitingForInput } := ⟨rfl, rfl⟩

theorem witness_EachElementHasOnlyItsWriters :
    exec (.sta 14) (alu 8 8 false) = .next { alu 8 8 false with ram := [(1, 8), (14, 8)] } ∧
      exec (.stai 1) (alu 6 15 false) = .next { alu 6 15 false with ram := [(1, 15), (15, 6)] } ∧
      exec .push { State.reset with acc := 5, sp := 15 } =
        .next { State.reset with acc := 5, sp := 16, stack := [(15, 5)] } ∧
      exec (.call 0 7) { State.reset with sp := 16 } = .next { State.reset with sp := 16, pc := 7 } :=
  ⟨rfl, rfl, rfl, rfl⟩

theorem witness_SpMovesOnlyOnTheStackInstructions :
    exec .push { State.reset with sp := 16 } = .next { State.reset with sp := 16 } ∧
      exec .pop { State.reset with sp := 16 } = .next { State.reset with sp := 15 } := ⟨rfl, rfl⟩

theorem witness_OnlyLoadProgramWritesRom :
    (∀ op ∈ [Operation.cycle, .toggleSwitch 2], ∀ code image, op ≠ .loadProgram code image) ∧
      performAll [.cycle, .toggleSwitch 2] (at_ 0 [0x25]) =
        .next { at_ 0 [0x25] with pc := 1, ir := 0x25, acc := 5, sw := 4 } :=
  ⟨by simp, rfl⟩

theorem witness_LedMirrorsUntilAnIndirectStore :
    exec (.stai 0) { State.reset with acc := 6, ram := [(0, 14)] } =
        .next { State.reset with acc := 6, ram := [(0, 14), (14, 6)] } ∧
      ({ State.reset with acc := 6, ram := [(0, 14)] } : State).led =
        ({ State.reset with acc := 6, ram := [(0, 14)] } : State).readRam 15 ∧
      ({ State.reset with acc := 6, ram := [(0, 14)] } : State).readRam 0 ≠ 15 := ⟨rfl, rfl, by decide⟩

theorem witness_HaltedIsFinal :
    ({ State.reset with state := .halted } : State).state = .halted ∧
      (∀ op ∈ [Operation.fetch, .execute, .cycle, .resolveInput 3],
        op ≠ .reset ∧ ∀ code image, op ≠ .loadProgram code image) ∧
      ∀ op ∈ [Operation.fetch, .execute, .cycle, .resolveInput 3], ∀ i, op ≠ .toggleSwitch i :=
  ⟨rfl, by simp, by simp⟩

theorem witness_WaitingGoesOnUntilTheHostActs :
    ({ State.reset with state := .waitingForInput } : State).state = .waitingForInput ∧
      ∀ op ∈ [Operation.cycle, .execute, .toggleSwitch 1], op = .cycle ∨ op = .execute ∨ ∃ i, op = .toggleSwitch i :=
  ⟨rfl, by simp⟩

theorem witness_InputPortRoundTrip : (at_ 255 [0x1E]).state = .running ∧ (at_ 255 [0x1E]).readRom (at_ 255 [0x1E]).pc = 0x1E := by
  decide

theorem witness_NestedCallsReturn :
    ({ State.reset with sp := 14 } : State).sp.val + [((0 : Nibble), (0x50 : Byte)), (7, 0x60)].length ≤ 16 := by decide

theorem witness_FetchesWhileWaitingSkipBytes :
    ({ at_ 255 [0x25] with state := .waitingForInput } : State).state = .waitingForInput := by decide

theorem witness_ExecuteTwiceRunsIrTwice_running :
    State.reset.state = .running ∧ decodeByte State.reset.ir (State.reset.readRom State.reset.pc) ≠ .rst := by decide
theorem witness_ExecuteTwiceRunsIrTwice_jmp :
    ({ at_ 0x40 [0x77] with ir := 0xB0 } : State).state = .running ∧
      ({ at_ 0x40 [0x77] with ir := 0xB0 } : State).ir = 0xB#4 ++ 0#4 := by decide
theorem witness_ExecuteTwiceRunsIrTwice_call :
    ∀ sp ∈ [(0 : Fin 17), 14, 15, 16],
      ({ at_ 0x50 [0x60] with ir := 0xE0, sp := sp } : State).state = .running ∧
        ({ at_ 0x50 [0x60] with ir := 0xE0, sp := sp } : State).ir = 0xE#4 ++ 0#4 := by decide

theorem witness_RegionsThatReadAlikeAreEqual :
    Memory.wf ([(3, 7), (15, 1)] : Memory 4) ∧
      Memory.wf (Memory.write (Memory.write [] 15 1) 3 7 : Memory 4) ∧
      ∀ a : Nat, Memory.read ([(3, 7), (15, 1)] : Memory 4) a = Memory.read (Memory.write (Memory.write [] 15 1) 3 7) a :=
  ⟨by decide, by decide, fun _ => rfl⟩

theorem witness_EveryStepKeepsTheInvariant :
    (at_ 0 [0xF4]).Inv ∧ step { at_ 0 [0xF4] with acc := 5 } =
      .next { at_ 0 [0xF4] with acc := 5, pc := 1, ir := 0xF4, sp := 1, stack := [(0, 5)] } := ⟨by decide, rfl⟩

theorem witness_EveryOperationKeepsTheInvariant :
    State.reset.Inv ∧ perform (.toggleSwitch 3) State.reset = .next { State.reset with sw := 8 } := ⟨by decide, rfl⟩

theorem witness_ProgramsCannotObserveResetParameters :
    State.SameToPrograms { at_ 0 [0xF4] with stack := [(0, 9)], ir := 1 } { at_ 0 [0xF4] with stack := [], ir := 2 } :=
  ⟨rfl, rfl, rfl, rfl, rfl, rfl, rfl, rfl, fun i hi => absurd hi (Nat.not_lt_zero i), rfl, rfl, rfl⟩

theorem witness_EmittedBytesCarryTheOperand :
    standardOpcode ['L', 'D', 'I'] = some 2 ∧ isTwoByte 2 = false ∧
      standardOpcode ['C', 'A', 'L', 'L'] = some 0xE ∧ isTwoByte 0xE = true := by decide

theorem witness_LabelsAreTheAddressesOfTheirLines :
    codePass [(['d'], 2)] ([⟨0, none, some (['J', 'M', 'P'], some ['d'])⟩] ++ ⟨1, some ['d'], some (['H', 'L', 'T'], none)⟩ :: []) =
      .ok [0xB0, 2, 0xF0] := by rfl

theorem witness_AssembledProgramsLoad :
    assemble ['.', 'd', 'a', 't', 'a', '\n', '9', '\n', '.', 'c', 'o', 'd', 'e', '\n', 'O', 'U', 'T'] =
      .ok [0xF2] [(0, 9)] ∧ [(0xF2 : Byte)].length ≤ 256 := by decide

end Sys2Proof.Tests
end

/-! PROOFS. The state of the machine (10_state.md): its all-zero start, its accessors, its stack pointer, the LED mirror,
and the canonical form of a region. -/

namespace Sys2Proof.Machine

/-! ## A canonical region is determined by what it reads as -/

section Regions

variable {w : Nat} {m : Memory w}

theorem Memory.read_of_unlisted {a : Nat} (h : ∀ p ∈ m, p.1 ≠ a) : m.read a = Memory.unlisted w := by
  induction m with
  | nil => rfl
  | cons p m ih =>
    obtain ⟨hp, hm⟩ := List.forall_mem_cons.mp h
    rw [Memory.read, if_neg hp, ih hm]

theorem Memory.read_of_mem (hsorted : m.Pairwise (fun p q => p.1 < q.1)) {a : Nat} {v : BitVec w}
    (h : (a, v) ∈ m) : m.read a = v := by
  induction m with
  | nil => exact nomatch h
  | cons p m ih =>
    obtain ⟨hp, hm⟩ := List.pairwise_cons.mp hsorted
    rcases List.mem_cons.mp h with rfl | h
    · exact if_pos rfl
    · rw [Memory.read, if_neg (Nat.ne_of_lt (hp _ h)), ih hm h]

/-- The entries of a canonical region are its cells that differ from what an unlisted cell reads as. -/
theorem Memory.mem_iff_read (hm : m.wf) {a : Nat} {v : BitVec w} :
    (a, v) ∈ m ↔ m.read a = v ∧ v ≠ Memory.unlisted w := by
  obtain ⟨hsorted, hlisted⟩ := hm
  constructor
  · exact fun h => ⟨Memory.read_of_mem hsorted h, hlisted _ h⟩
  · rintro ⟨hread, hv⟩
    refine Classical.byContradiction fun hnot => hv (hread ▸ Memory.read_of_unlisted ?_)
    rintro ⟨b, u⟩ hp rfl
    have hu : u = v := (Memory.read_of_mem hsorted hp).symm.trans hread
    exact hnot (hu ▸ hp)

/-- Rising addresses fix the order of the entries, so the entries determine the list. -/
theorem Memory.eq_of_mem_iff {k : Memory w} (hm : m.Pairwise (fun p q => p.1 < q.1))
    (hk : k.Pairwise (fun p q => p.1 < q.1)) (h : ∀ p, p ∈ m ↔ p ∈ k) : m = k := by
  have nodup_of_sorted {l : Memory w} (hl : l.Pairwise (fun p q => p.1 < q.1)) : l.Nodup :=
    hl.imp fun hlt heq => Nat.ne_of_lt hlt (congrArg Prod.fst heq)
  have hperm : m.Perm k := (List.perm_ext_iff_of_nodup (nodup_of_sorted hm) (nodup_of_sorted hk)).mpr h
  exact hperm.eq_of_pairwise (fun _ _ _ _ hlt hgt => absurd hgt (Nat.lt_asymm hlt)) hm hk

end Regions

/-- Settles O51: regions that read alike have the same entries, and the entries of a canonical region determine it. -/
theorem regionsThatReadAlikeAreEqual : Obligations.RegionsThatReadAlikeAreEqual := by
  intro w m k hm hk hread
  refine Memory.eq_of_mem_iff hm.1 hk.1 fun (a, v) => ?_
  rw [Memory.mem_iff_read hm, Memory.mem_iff_read hk, hread a]

/-! ## SP and LED after any instruction -/

/-- Settles O39: `exec_cases` leaves the two ends of the stack to look at; every other instruction keeps SP. -/
theorem spMovesOnlyOnTheStackInstructions : Obligations.SpMovesOnlyOnTheStackInstructions := by
  intro i s t h
  apply exec_cases h
  case callFull => intro x a hfull; simp [hfull]
  case pushFull => intro hfull; simp [hfull]
  case call => intro x a sp hroom hsp; simp only; omega
  case push => intro sp hroom hsp; simp only; omega
  case popEmpty => intro hempty; simp [hempty]
  case retEmpty => intro hempty; simp [hempty]
  case pop => exact fun sp _ hsp => hsp
  case ret => exact fun sp _ hsp => hsp
  case rst => rfl
  all_goals intros; rfl

theorem State.readRam_writeRam_ne (s : State) {a b : Nibble} (v : Nibble) (h : a ≠ b) :
    (s.writeRam a v).readRam b = s.readRam b := by
  rw [State.readRam_writeRam, if_neg h.symm]

/-- Settles O42: RAM is written by STA, STAI and RST alone. STA [15] writes LED with the cell, RST clears both, and the
other stores miss the cell; every other instruction keeps LED and RAM. -/
theorem ledMirrorsUntilAnIndirectStore : Obligations.LedMirrorsUntilAnIndirectStore := by
  intro i s t h hled
  apply exec_cases h
  case staPort =>
    intro _
    show s.acc = (s.writeRam 15 s.acc).readRam 15
    rw [State.readRam_writeRam, if_pos rfl]
  case sta =>
    intro n hn _
    rw [State.readRam_writeRam_ne s _ hn]
    exact hled
  case stai =>
    intro n htarget
    rw [State.readRam_writeRam_ne s _ (htarget n rfl)]
    exact hled
  case rst => exact fun _ => rfl
  all_goals intros; exact hled

/-! ## Construction, and the run of a ROM of zeros -/

/-- Where ROM reads 0, a step fetches a NOP and runs it: only IR and PC change (41_data.md R130). -/
theorem step_of_rom_zero {s : State} (hs : s.state = .running) (hrom : ∀ a, s.readRom a = 0) :
    step s = .next { s with ir := 0, pc := s.pc + 1 } := by
  have hfetched : s.fetched = { s with ir := 0, pc := s.pc + 1 } := by rw [State.fetched, hrom]
  have hinstr : s.fetched.currentInstr = .nop 0 := by
    have hbytes : s.fetched.currentInstr = decodeByte (s.readRom s.pc) (s.readRom (s.pc + 1)) := rfl
    rw [hbytes, hrom, hrom]
    rfl
  rw [step_running hs, hinstr, ← hfetched]
  rfl

/-- k steps over a ROM of zeros are k NOPs: PC goes up by k, and IR, which held 0, holds 0 again (70_reset_and_hazards.md
R250). -/
theorem run_of_rom_zero (k : Nat) {s : State} (hs : s.state = .running) (hir : s.ir = 0)
    (hrom : ∀ a, s.readRom a = 0) : Sys2Proof.core.run k s = .next { s with pc := s.pc + BitVec.ofNat 8 k } := by
  induction k generalizing s with
  | zero => rw [core_run_zero, BitVec.add_zero]
  | succ k ih =>
    have hpc : s.pc + 1 + BitVec.ofNat 8 k = s.pc + BitVec.ofNat 8 (k + 1) := by
      rw [BitVec.add_assoc, Nat.add_comm k 1, BitVec.ofNat_add, BitVec.ofNat_eq_ofNat]
    calc Sys2Proof.core.run (k + 1) s
      _ = Sys2Proof.core.run k { s with ir := 0, pc := s.pc + 1 } := core_run_succ (step_of_rom_zero hs hrom)
      _ = .next { s with ir := 0, pc := s.pc + 1 + BitVec.ofNat 8 k } := ih hs rfl hrom
      _ = .next { s with pc := s.pc + BitVec.ofNat 8 (k + 1) } := by rw [hpc, hir]

/-- Settles O34: the values of construction, and then k NOPs, each raising PC by one. -/
theorem constructionIsAllZero : Obligations.ConstructionIsAllZero := by
  refine ⟨rfl, rfl, rfl, rfl, rfl, rfl, rfl, rfl, rfl, rfl, fun _ => rfl, fun _ => rfl, fun _ => rfl, fun k => ?_⟩
  rw [run_of_rom_zero k rfl rfl fun _ => rfl]
  simp [State.reset]

/-! ## The accessors and the invariant at reset -/

theorem observeCell_eq {w : Nat} (n : Nat) (m : Memory w) (a : Nat) :
    observeCell n m a = if a < n then .ok (.number (m.read a).toNat) else .error .outOfRegion := rfl

/-- Settles O35: each accessor is `observeCell` at the size of its region. -/
theorem accessorsAnswerInsideTheirRegion : Obligations.AccessorsAnswerInsideTheirRegion :=
  fun s a => ⟨observeCell_eq 256 s.rom a, observeCell_eq 16 s.ram a, observeCell_eq 16 s.stack a⟩

/-- Settles O52: no cell is listed in the reset state. -/
theorem resetMeetsTheInvariant : Obligations.ResetMeetsTheInvariant := reset_memories_wf

end Sys2Proof.Machine

/-! PROOFS. The memories (20_memory.md): the regions stay canonical and within their sizes, ROM is written by
LoadProgram alone, and no instruction reads it as data. -/

namespace Sys2Proof.Machine

variable {i : Instr} {op : Operation} {s t : State}

/-! ## What an operation of the host can do, said once -/

/-- A step runs an instruction on the fetched state, or, in `WaitingForInput` and `Halted`, changes nothing. -/
theorem step_cases (h : step s = .next t) : (∃ i, exec i s.fetched = .next t) ∨ t = s := by
  by_cases hs : s.state = .running
  · exact .inl ⟨_, step_running hs ▸ h⟩
  · rw [step_stopped hs] at h
    injection h with h
    exact .inr h.symm

/-- Execute runs an instruction, or changes nothing (40_cycle.md R111). -/
theorem State.execute_cases (h : s.execute = .next t) : (∃ i, exec i s = .next t) ∨ t = s := by
  by_cases hs : s.state = .running
  · exact .inl ⟨_, State.execute_running hs ▸ h⟩
  · rw [State.execute_stopped hs] at h
    injection h with h
    exact .inr h.symm

theorem State.fetch_cases (s : State) : s.fetch = s.fetched ∨ s.fetch = s := by
  by_cases hs : s.state = .halted
  · exact .inr (State.fetch_halted hs)
  · exact .inl (State.fetch_of_not_halted hs)

/-- LoadProgram answers a next state only for code that fits ROM and an image inside RAM
(70_reset_and_hazards.md R252). -/
theorem State.loadProgram_next {code : List Byte} {image : List (Nat × Int)}
    (h : s.loadProgram code image = .next t) :
    code.length ≤ Config.romCells ∧ (∀ e ∈ image, e.1 < Config.ramCells) ∧
      t = (s.loadedWith (Config.irOnReset s.resetDraws) code image).countDraw := by
  unfold State.loadProgram at h
  split at h
  · exact nomatch h
  · next hcode =>
    split at h
    · next himage =>
      injection h with h
      exact ⟨Nat.le_of_not_lt hcode, by simpa using himage, h.symm⟩
    · exact nomatch h

/-- To show `P t` of the state `t` an operation answers from `s`, show it of `s`, of what a Fetch or an instruction
leaves, and of what the other operations leave. Reset has no case of its own: it is the meaning of RST. -/
theorem perform_cases {P : State → Prop} (h : perform op s = .next t)
    (loaded : ∀ code image, op = .loadProgram code image → code.length ≤ Config.romCells →
      (∀ e ∈ image, e.1 < Config.ramCells) →
      P (s.loadedWith (Config.irOnReset s.resetDraws) code image).countDraw)
    (unchanged : P s)
    (fetched : P s.fetched)
    (executed : ∀ i t, exec i s = .next t → P t)
    (cycled : ∀ i t, exec i s.fetched = .next t → P t)
    (resolved : ∀ v, P { s with acc := v, z := zeroFlag v, ram := s.ram.write 14 v, state := .running })
    (toggled : ∀ i, P (s.toggleSwitch i)) : P t := by
  cases op with
  | loadProgram code image =>
    obtain ⟨hcode, himage, rfl⟩ := State.loadProgram_next h
    exact loaded code image rfl hcode himage
  | fetch =>
    injection h with h
    rcases s.fetch_cases with hf | hf
    · rw [← h, hf]
      exact fetched
    · rw [← h, hf]
      exact unchanged
  | execute =>
    rcases State.execute_cases h with ⟨i, hi⟩ | rfl
    · exact executed i t hi
    · exact unchanged
  | cycle =>
    rcases step_cases h with ⟨i, hi⟩ | rfl
    · exact cycled i t hi
    · exact unchanged
  | resolveInput value =>
    injection h with h
    rcases s.resolveInput_cases value with ⟨-, hr⟩ | ⟨-, hr⟩
    · rw [← h, hr]
      exact resolved (toNibble value)
    · rw [← h, hr]
      exact unchanged
  | reset => exact executed .rst t h
  | toggleSwitch i =>
    injection h with h
    exact h ▸ toggled i

/-! ## The invariant -/

section Regions

variable {w n : Nat} {m : Memory w}

/-- A write inside a region keeps both halves of the invariant of that region. -/
theorem Memory.wf_within_write {a : Nat} (v : BitVec w) (h : m.wf ∧ m.within n) (ha : a < n) :
    (m.write a v).wf ∧ (m.write a v).within n :=
  ⟨Memory.wf_write a v h.1, Memory.within_write v h.2 ha⟩

theorem Memory.wf_within_cleared (w n : Nat) :
    (Memory.cleared : Memory w).wf ∧ (Memory.cleared : Memory w).within n :=
  ⟨Memory.wf_cleared, Memory.within_cleared n⟩

end Regions

/-- A nibble addresses a cell of RAM, whatever its value (20_memory.md R61). -/
theorem State.writeRam_keeps_inv (hs : s.Inv) (a v : Nibble) : (s.writeRam a v).Inv := by
  obtain ⟨hrom, hram, hstack⟩ := hs
  exact ⟨hrom, Memory.wf_within_write v hram a.isLt, hstack⟩

theorem State.softReset_keeps_inv (hs : s.Inv) : s.softReset.Inv := by
  obtain ⟨hrom, -, hstack⟩ := hs
  refine ⟨hrom, Memory.wf_within_cleared 4 _, ?_⟩
  rw [State.softReset_stack]
  rcases stackAfterReset_cases Config.stackOnReset s.stack with h | h
  · rw [h]
    exact hstack
  · rw [h]
    exact Memory.wf_within_cleared 8 _

theorem State.loadedWith_keeps_inv (hs : s.Inv) (ir : Byte) {code : List Byte} {image : List (Nat × Int)}
    (hcode : code.length ≤ Config.romCells) (himage : ∀ e ∈ image, e.1 < Config.ramCells) :
    (s.loadedWith ir code image).Inv := by
  obtain ⟨-, -, hstack⟩ := hs
  refine ⟨⟨Memory.wf_writeFrom 0 code Memory.wf_cleared, ?_⟩,
    ⟨Memory.wf_writeImage image Memory.wf_cleared, ?_⟩, hstack⟩
  · exact Memory.within_writeFrom code (Memory.within_cleared _) (by omega)
  · exact Memory.within_writeImage image (Memory.within_cleared _) himage

/-- Every instruction keeps the invariant: STA and STAI write a cell of RAM, CALL and PUSH a cell of STACK below 16, RST
clears, and no other instruction writes a region. -/
theorem exec_keeps_inv (h : exec i s = .next t) (hs : s.Inv) : t.Inv := by
  have ⟨hrom, hram, hstack⟩ := hs
  apply exec_cases (P := fun _ t => t.Inv) h
  case staPort => exact State.writeRam_keeps_inv hs 15 s.acc
  case sta => exact fun n _ => State.writeRam_keeps_inv hs n s.acc
  case stai => exact fun n => State.writeRam_keeps_inv hs (s.readRam n) s.acc
  case call => exact fun _ _ _ hroom _ => ⟨hrom, hram, Memory.wf_within_write _ hstack hroom⟩
  case push => exact fun _ hroom _ => ⟨hrom, hram, Memory.wf_within_write _ hstack hroom⟩
  case rst => exact State.softReset_keeps_inv hs
  all_goals intros; exact hs

/-- Settles O53: Fetch writes no region, and no instruction breaks the invariant. -/
theorem everyStepKeepsTheInvariant : Obligations.EveryStepKeepsTheInvariant := by
  intro s t hs h
  rcases step_cases h with ⟨i, hi⟩ | rfl
  · exact exec_keeps_inv hi hs
  · exact hs

/-- Settles O54: beside the instructions, LoadProgram rewrites ROM and RAM within their sizes, and ResolveInput writes
RAM[14]. -/
theorem everyOperationKeepsTheInvariant : Obligations.EveryOperationKeepsTheInvariant := by
  intro op s t hs h
  apply perform_cases h
  case loaded =>
    exact fun code image _ hcode himage =>
      State.loadedWith_keeps_inv hs (Config.irOnReset s.resetDraws) hcode himage
  case executed => exact fun i t hi => exec_keeps_inv hi hs
  case cycled => exact fun i t hi => exec_keeps_inv (s := s.fetched) hi hs
  case resolved => exact fun v => State.writeRam_keeps_inv hs 14 v
  case unchanged | fetched => exact hs
  case toggled => exact fun _ => hs

/-! ## Who writes ROM -/

/-- No instruction writes ROM (20_memory.md R65). -/
theorem exec_keeps_rom (h : exec i s = .next t) : t.rom = s.rom := by
  apply exec_cases (P := fun _ t => t.rom = s.rom) h
  all_goals intros; rfl

theorem perform_keeps_rom (hop : ∀ code image, op ≠ .loadProgram code image) (h : perform op s = .next t) :
    t.rom = s.rom := by
  apply perform_cases h
  case loaded => exact fun code image hload => absurd hload (hop code image)
  case executed => exact fun _ _ hi => exec_keeps_rom hi
  case cycled => exact fun _ _ hi => exec_keeps_rom (s := s.fetched) hi
  all_goals intros; rfl

/-- A list of operations answers a next state only through the next state of its first. -/
theorem performAll_cons_next {ops : List Operation} (h : performAll (op :: ops) s = .next t) :
    ∃ s', perform op s = .next s' ∧ performAll ops s' = .next t := by
  rw [performAll] at h
  split at h
  · next s' hs' => exact ⟨s', hs', h⟩
  · exact nomatch h
  · exact nomatch h

/-- Settles O40, by induction on the operations. -/
theorem onlyLoadProgramWritesRom : Obligations.OnlyLoadProgramWritesRom := by
  intro ops s t hops h
  induction ops generalizing s with
  | nil =>
    injection h with h
    rw [h]
  | cons op ops ih =>
    obtain ⟨hop, hops⟩ := List.forall_mem_cons.mp hops
    obtain ⟨s', hfirst, hrest⟩ := performAll_cons_next h
    exact (ih s' hops hrest).trans (perform_keeps_rom hop hfirst)

/-! ## Who reads ROM -/

theorem State.branch_withRom (taken : Bool) (a : Byte) (s : State) (m : Memory 8) :
    State.branch taken a { s with rom := m } = { s.branch taken a with rom := m } := by
  cases taken <;> rfl

theorem State.pushByte_withRom (v : Byte) (s : State) (m : Memory 8) :
    State.pushByte { s with rom := m } v = { s.pushByte v with rom := m } := by
  unfold State.pushByte
  split <;> rfl

theorem State.popByte_withRom (s : State) (m : Memory 8) :
    s.popByte = none ∧ State.popByte { s with rom := m } = none ∨
      ∃ b t, s.popByte = some (b, t) ∧ State.popByte { s with rom := m } = some (b, { t with rom := m }) := by
  unfold State.popByte
  by_cases hsp : 0 < s.sp.val
  · exact .inr ⟨_, _, if_pos hsp, if_pos hsp⟩
  · exact .inl ⟨if_neg hsp, if_neg hsp⟩

/-- An instruction answers over any ROM what it answers over the state's own: its meaning tests no ROM cell and copies
none (20_memory.md R51). -/
theorem exec_withRom (i : Instr) (s : State) (m : Memory 8) :
    ∃ t, exec i s = .next t ∧ exec i { s with rom := m } = .next { t with rom := m } := by
  cases i
  case lda n =>
    by_cases hn : n = Config.inputPort
    · exact ⟨_, if_pos hn, if_pos hn⟩
    · exact ⟨_, if_neg hn, if_neg hn⟩
  case sta n =>
    by_cases hn : n = Config.outputPort
    · exact ⟨_, if_pos hn, if_pos hn⟩
    · exact ⟨_, if_neg hn, if_neg hn⟩
  case jz x a => exact ⟨_, rfl, congrArg _ (State.branch_withRom s.z a s m)⟩
  case jc x a => exact ⟨_, rfl, congrArg _ (State.branch_withRom s.c a s m)⟩
  case call x a =>
    have hpush := State.pushByte_withRom s.afterOperand s m
    exact ⟨_, rfl, congrArg (fun r : State => Host.Outcome.next (r.jumpTo a)) hpush⟩
  case push => exact ⟨_, rfl, congrArg _ (State.pushByte_withRom (widen s.acc) s m)⟩
  case pop =>
    rcases s.popByte_withRom m with ⟨hown, hother⟩ | ⟨b, t, hown, hother⟩
    · exact ⟨s, by rw [exec, execPop, hown], by rw [exec, execPop, hother]⟩
    · exact ⟨t.setAcc (lowNibble b), by rw [exec, execPop, hown], by rw [exec, execPop, hother]; rfl⟩
  case ret =>
    rcases s.popByte_withRom m with ⟨hown, hother⟩ | ⟨b, t, hown, hother⟩
    · exact ⟨s, by rw [exec, execRet, hown], by rw [exec, execRet, hother]⟩
    · exact ⟨t.jumpTo b, by rw [exec, execRet, hown], by rw [exec, execRet, hother]; rfl⟩
  all_goals exact ⟨_, rfl, rfl⟩

/-- Two branches from one state that differ in their target differ in PC alone. -/
theorem State.branch_frame (taken : Bool) (a b : Byte) (s : State) :
    s.branch taken b = { s.branch taken a with pc := (s.branch taken b).pc } := by
  cases taken <;> rfl

/-- Settles O41: `exec_withRom`, and for the operand byte the one place each of the four instructions puts it, PC. -/
theorem romIsNeverData : Obligations.RomIsNeverData := by
  refine ⟨fun i s m => ?_, fun x a b s p hp => ?_⟩
  · obtain ⟨t, hown, hother⟩ := exec_withRom i s m
    rw [hown, hother]
  · simp only [List.mem_cons, List.not_mem_nil, or_false] at hp
    rcases hp with rfl | rfl | rfl | rfl
    · exact ⟨_, _, rfl, rfl, rfl⟩
    · exact ⟨_, _, rfl, rfl, State.branch_frame s.z a b s⟩
    · exact ⟨_, _, rfl, rfl, State.branch_frame s.c a b s⟩
    · exact ⟨_, _, rfl, rfl, rfl⟩

end Sys2Proof.Machine

/-! PROOFS. The encoding (30_encoding.md): decoder and encoder undo each other, and what the assembler emits. -/

namespace Sys2Proof

/-! ## The fields of a byte -/

theorem packByte_eq_append (op n : Nibble) : packByte op n = op ++ n := by
  revert op n; decide

theorem opcodeOf_toNat (b : Byte) : (opcodeOf b).toNat = b.toNat / 16 := by
  have hb := b.isLt
  simp only [opcodeOf, BitVec.toNat_setWidth, BitVec.toNat_ushiftRight, Nat.shiftRight_eq_div_pow]
  omega

/-- The bytes 0xB0..0xEF are those that an operand byte follows (30_encoding.md R70). -/
theorem isTwoByte_opcodeOf_iff (b : Byte) :
    isTwoByte (opcodeOf b) = true ↔ 0xB0 ≤ b.toNat ∧ b.toNat ≤ 0xEF := by
  rw [isTwoByte, decide_eq_true_iff, opcodeOf_toNat]
  omega

/-! ## What decoding can answer, said once -/

/-- To show `P bytes` of what a list of bytes decodes to, show it of the empty list, of a two-byte opcode cut short, and
of an instruction of each length. -/
theorem decode_cases {P : List Byte → Decoded → Prop} (bytes : List Byte)
    (empty : P [] .noOpcodeByte)
    (cutShort : ∀ b, isTwoByte (opcodeOf b) = true → P [b] .noOperandByte)
    (oneByte : ∀ b rest, isTwoByte (opcodeOf b) = false → P (b :: rest) (.instr (decodeByte b 0) rest))
    (twoByte : ∀ b t rest, isTwoByte (opcodeOf b) = true → P (b :: t :: rest) (.instr (decodeByte b t) rest)) :
    P bytes (decode bytes) := by
  match bytes with
  | [] => exact empty
  | b :: bs =>
    cases hb : isTwoByte (opcodeOf b) with
    | false => exact decode_oneByte bs hb ▸ oneByte b bs hb
    | true =>
      match bs with
      | [] =>
        have hcut : decode [b] = .noOperandByte := if_pos hb
        exact hcut ▸ cutShort b hb
      | t :: rest => exact decode_twoByte t rest hb ▸ twoByte b t rest hb

/-! ## Decoding what was encoded -/

theorem decode_formatA {op : Nibble} (n : Nibble) (rest : List Byte) (h : isTwoByte op = false) :
    decode (formatA op n ++ rest) = .instr (decodeByte (packByte op n) 0) rest :=
  decode_oneByte rest (by rw [opcodeOf_packByte, h])

theorem decode_formatB {op : Nibble} (x : Nibble) (t : Byte) (rest : List Byte) (h : isTwoByte op = true) :
    decode (formatB op x t ++ rest) = .instr (decodeByte (packByte op x) t) rest :=
  decode_twoByte t rest (by rw [opcodeOf_packByte, h])

theorem decodeExtended_of_isHighReserved {s : Nibble} (h : isHighReserved s = true) :
    decodeExtended s = .extReserved8to15 s := by
  revert s; decide

theorem decode_formatX (s : Nibble) (rest : List Byte) :
    decode (formatX s ++ rest) = .instr (decodeExtended s) rest := by
  have hbyte : decodeByte (packByte 0xF s) 0 = decodeExtended s := by simp [decodeByte]
  rw [← hbyte]
  exact decode_formatA s rest rfl

/-- Settles O2: each format decodes through its opcode byte, whose two fields the decoder reads back; a reserved
sub-opcode of 8 or more is no other instruction's. -/
theorem decodeOfEncodeIsTheInstruction : Obligations.DecodeOfEncodeIsTheInstruction := by
  intro i rest hwf
  cases i with
  | nop n | lda n | ldi n | sta n | add n | sub n | and n | or n | xor n | ldai n | stai n =>
    rw [encode, decode_formatA n rest rfl]
    simp [decodeByte]
  | jmp x t | jz x t | jc x t | call x t =>
    rw [encode, decode_formatB x t rest rfl]
    simp [decodeByte]
  | hlt | rst | out | not | push | pop | ret | extReserved7 => exact decode_formatX _ rest
  | extReserved8to15 s => rw [encode, decode_formatX, decodeExtended_of_isHighReserved hwf]

/-- Settles O1: each written-out word is the encoding of its instruction. -/
theorem writtenOutBytesDecode : Obligations.WrittenOutBytesDecode :=
  have decodes := decodeOfEncodeIsTheInstruction
  ⟨decodes (.nop 7) [] rfl, decodes (.ldi 5) [] rfl, decodes (.sta 15) [] rfl, decodes (.add 0) [] rfl,
    decodes (.ldai 3) [] rfl, decodes (.jz 0 6) [] rfl, decodes (.call 0 200) [] rfl,
    decodes (.jmp 7 0x40) [0xF0] rfl, decodes .out [] rfl, decodes .not [] rfl, decodes .extReserved7 [] rfl,
    decodes (.extReserved8to15 9) [] rfl⟩

/-! ## Encoding what was decoded -/

theorem wellFormed_decodeExtended (s : Nibble) : WellFormed (decodeExtended s) = true := by
  revert s; decide

theorem encode_decodeExtended (s : Nibble) : encode (decodeExtended s) = formatX s := by
  revert s; decide

theorem wellFormed_decodeByte (b t : Byte) : WellFormed (decodeByte b t) = true := by
  unfold decodeByte
  split
  case h_16 => exact wellFormed_decodeExtended (operandOf b)
  all_goals rfl

/-- The instruction of an opcode byte encodes to that byte, with the operand byte after it for a two-byte opcode. -/
theorem encode_decodeByte (b t : Byte) :
    encode (decodeByte b t) = if isTwoByte (opcodeOf b) then [b, t] else [b] := by
  obtain ⟨op, n, rfl⟩ : ∃ op n, b = packByte op n := ⟨_, _, (packByte_fields b).symm⟩
  have hop : BitVec.ofNat 4 op.toNat = op := by rw [BitVec.ofNat_toNat, BitVec.setWidth_eq]
  simp only [decodeByte, opcodeOf_packByte, operandOf_packByte]
  split
  case h_16 =>
    have hk : op.toNat = 15 := by
      have := op.isLt
      grind
    rw [hk] at hop
    subst hop
    exact encode_decodeExtended n
  all_goals
    next hk =>
      rw [hk] at hop
      subst hop
      rfl

/-- Settles O3: whatever the length, what decodes is `decodeByte` of the bytes read, whose encoding is those bytes. -/
theorem encodeOfDecodedIsTheBytes : Obligations.EncodeOfDecodedIsTheBytes := by
  intro bytes i rest
  apply decode_cases (P := fun bytes d => d = .instr i rest → WellFormed i = true ∧ encode i ++ rest = bytes)
  case empty | cutShort => intros; contradiction
  case oneByte =>
    rintro b rest hb ⟨⟩
    refine ⟨wellFormed_decodeByte b 0, ?_⟩
    rw [encode_decodeByte, hb]
    rfl
  case twoByte =>
    rintro b t rest hb ⟨⟩
    refine ⟨wellFormed_decodeByte b t, ?_⟩
    rw [encode_decodeByte, hb]
    rfl

/-- Settles O4: `decode_cases`, with the two-byte opcode bytes as a range. -/
theorem onlyCutShortBytesAreTurnedAway : Obligations.OnlyCutShortBytesAreTurnedAway := by
  intro bytes
  simp only [← isTwoByte_opcodeOf_iff]
  apply decode_cases (P := fun bytes d => (d = .noOpcodeByte ↔ bytes = []) ∧
    (d = .noOperandByte ↔ ∃ b : Byte, bytes = [b] ∧ isTwoByte (opcodeOf b) = true))
  case empty => simp
  case cutShort => intro b hb; simp [hb]
  case oneByte => intro b rest hb; simp [hb]
  case twoByte => intro b t rest _; simp

end Sys2Proof

namespace Sys2Proof.Machine

/-! ## The mnemonic tables -/

theorem lookupText_mem {α : Type} {rows : List (Text × α)} {t : Text} {v : α} (h : lookupText rows t = some v) :
    (t, v) ∈ rows := by
  induction rows with
  | nil => exact nomatch h
  | cons row rows ih =>
    rw [lookupText] at h
    split at h
    · next hname =>
      injection h with h
      rw [← hname, ← h]
      exact List.mem_cons_self
    · exact List.mem_cons_of_mem _ (ih h)

/-- No mnemonic is in both tables (30_encoding.md R91). -/
theorem extendedCode_of_standardOpcode {m : Text} {op : Nibble} (h : standardOpcode m = some op) :
    extendedCode m = none := by
  have hrows : ∀ row ∈ standardMnemonics, extendedCode row.1 = none := by decide
  exact hrows (m, op) (lookupText_mem h)

/-! ## Emission -/

theorem emitStandard_oneByte {op : Nibble} (v : Nat) (h : isTwoByte op = false) :
    emitStandard op v = formatA op (BitVec.ofNat 4 v) := by
  simp [emitStandard, h]

theorem emitStandard_twoByte {op : Nibble} (v : Nat) (h : isTwoByte op = true) :
    emitStandard op v = formatB op 0 (BitVec.ofNat 8 v) := by
  simp [emitStandard, h]

theorem emitStandard_length (op : Nibble) (v : Nat) :
    (emitStandard op v).length = if isTwoByte op then 2 else 1 := by
  cases h : isTwoByte op with
  | false => rw [emitStandard_oneByte v h]; rfl
  | true => rw [emitStandard_twoByte v h]; rfl

/-- Settles O56: the emitted format is one packed byte, alone or before the operand byte, and decodes as such. -/
theorem emittedBytesCarryTheOperand : Obligations.EmittedBytesCarryTheOperand := by
  intro m op v hm
  refine ⟨extendedCode_of_standardOpcode hm, fun hop => ?_, fun hop => ?_⟩
  · rw [emitStandard_oneByte v hop, ← packByte_eq_append]
    exact ⟨rfl, decode_formatA _ [] hop⟩
  · rw [emitStandard_twoByte v hop, ← packByte_eq_append]
    exact ⟨rfl, decode_formatB _ _ [] hop⟩

/-! ## Pass 2, line by line -/

section Pass2

variable {syms : Symbols}

/-- What emitting an instruction can answer: one byte of format X, a standard instruction's bytes, or an error, which
names its reason (30_encoding.md R97 to R100). -/
theorem emitLine_cases (syms : Symbols) (number : Nat) (m : Text) (operand : Option Text) :
    (∃ s, standardOpcode m = none ∧ emitLine syms number m operand = .ok (formatX s)) ∨
      (∃ op v, standardOpcode m = some op ∧ emitLine syms number m operand = .ok (emitStandard op v)) ∨
      ∃ e, emitLine syms number m operand = .error e ∧ ∀ code image, e ≠ .ok code image := by
  unfold emitLine
  cases hop : standardOpcode m with
  | none =>
    cases extendedCode m with
    | none => exact .inr (.inr ⟨_, rfl, nofun⟩)
    | some s => exact .inl ⟨s, rfl, rfl⟩
  | some op =>
    rw [extendedCode_of_standardOpcode hop]
    cases operand with
    | none => exact .inr (.inl ⟨op, 0, rfl, rfl⟩)
    | some token =>
      simp only
      cases resolveOperand syms token with
      | value v => exact .inr (.inl ⟨op, v, rfl, rfl⟩)
      | invalid => exact .inr (.inr ⟨_, rfl, nofun⟩)
      | unsettled => exact .inr (.inr ⟨_, rfl, nofun⟩)

/-- Pass 2 emits for a line as many bytes as pass 1 counted (30_encoding.md R96). -/
theorem emitCodeLine_length {c : CodeLine} {bytes : List Byte} (h : emitCodeLine syms c = .ok bytes) :
    bytes.length = sizeOfCodeLine c := by
  obtain ⟨number, label, instr⟩ := c
  cases instr with
  | none =>
    rw [← Except.ok.inj h]
    rfl
  | some instr =>
    obtain ⟨m, operand⟩ := instr
    rcases emitLine_cases syms number m operand with ⟨s, hop, hs⟩ | ⟨op, v, hop, hv⟩ | ⟨e, he, -⟩
    · rw [← Except.ok.inj (hs.symm.trans h)]
      simp [sizeOfCodeLine, hop, formatX]
    · rw [← Except.ok.inj (hv.symm.trans h)]
      simp [sizeOfCodeLine, hop, emitStandard_length]
    · exact nomatch he.symm.trans h

/-- Pass 2 emits code for a list of lines only by emitting its first line and then the others. -/
theorem codePass_cons_ok {c : CodeLine} {cs : List CodeLine} {code : List Byte}
    (h : codePass syms (c :: cs) = .ok code) :
    ∃ bytes more, emitCodeLine syms c = .ok bytes ∧ codePass syms cs = .ok more ∧ code = bytes ++ more := by
  rw [codePass] at h
  split at h
  · exact nomatch h
  · next bytes hbytes =>
    split at h
    · exact nomatch h
    · next more hmore => exact ⟨bytes, more, hbytes, hmore, (Except.ok.inj h).symm⟩

theorem codePass_cons_of_ok {c : CodeLine} {cs : List CodeLine} {bytes more : List Byte}
    (hbytes : emitCodeLine syms c = .ok bytes) (hmore : codePass syms cs = .ok more) :
    codePass syms (c :: cs) = .ok (bytes ++ more) := by
  simp [codePass, hbytes, hmore]

/-- The code of all lines begins with the code of the first of them. -/
theorem codePass_append_ok {before after : List CodeLine} {code : List Byte}
    (h : codePass syms (before ++ after) = .ok code) :
    ∃ head tail, codePass syms before = .ok head ∧ code = head ++ tail := by
  induction before generalizing code with
  | nil => exact ⟨[], code, rfl, rfl⟩
  | cons c cs ih =>
    obtain ⟨bytes, more, hbytes, hmore, rfl⟩ := codePass_cons_ok h
    obtain ⟨head, tail, hhead, rfl⟩ := ih hmore
    exact ⟨bytes ++ head, tail, codePass_cons_of_ok hbytes hhead, (List.append_assoc ..).symm⟩

theorem codePass_length {lines : List CodeLine} {code : List Byte} (h : codePass syms lines = .ok code) :
    code.length = (lines.map sizeOfCodeLine).sum := by
  induction lines generalizing code with
  | nil =>
    obtain rfl := Except.ok.inj h
    rfl
  | cons c cs ih =>
    obtain ⟨bytes, more, hbytes, hmore, rfl⟩ := codePass_cons_ok h
    rw [List.length_append, emitCodeLine_length hbytes, ih hmore, List.map_cons, List.sum_cons]

theorem codeLabels_append (address : Nat) (before after : List CodeLine) :
    codeLabels address (before ++ after) =
      codeLabels address before ++ codeLabels (address + (before.map sizeOfCodeLine).sum) after := by
  induction before generalizing address with
  | nil => rfl
  | cons c cs ih => simp [codeLabels, ih, Nat.add_assoc]

/-- A label is recorded with the size of the lines before its own (30_encoding.md R96). -/
theorem mem_codeLabels {before after : List CodeLine} {line : CodeLine} {name : Text} (h : line.label = some name) :
    (name, (before.map sizeOfCodeLine).sum) ∈ codeLabels 0 (before ++ line :: after) := by
  simp [codeLabels_append, codeLabels, bindLabel, h]

theorem emitCodeLine_error_ne_ok (c : CodeLine) (code : List Byte) (image : List (Nat × Nibble)) :
    emitCodeLine syms c ≠ .error (.ok code image) := by
  obtain ⟨number, label, instr⟩ := c
  cases instr with
  | none => exact nofun
  | some instr =>
    obtain ⟨m, operand⟩ := instr
    intro h
    rcases emitLine_cases syms number m operand with ⟨s, -, hs⟩ | ⟨op, v, -, hv⟩ | ⟨e, he, hreason⟩
    · exact nomatch hs.symm.trans h
    · exact nomatch hv.symm.trans h
    · exact hreason code image (Except.error.inj (he.symm.trans h))

/-- Where pass 2 ends in an error, that error is no success in disguise. -/
theorem codePass_error_ne_ok (lines : List CodeLine) (code : List Byte) (image : List (Nat × Nibble)) :
    codePass syms lines ≠ .error (.ok code image) := by
  induction lines with
  | nil => exact nofun
  | cons c cs ih =>
    intro h
    rw [codePass] at h
    split at h
    · next e he => exact emitCodeLine_error_ne_ok c code image (Except.error.inj h ▸ he)
    · split at h
      · next e he => exact ih (Except.error.inj h ▸ he)
      · exact nomatch h

end Pass2

/-- Settles O57: the code begins with that of the lines before, which has the size that pass 1 counted for its label. -/
theorem labelsAreTheAddressesOfTheirLines : Obligations.LabelsAreTheAddressesOfTheirLines := by
  intro syms before after line code h
  obtain ⟨head, tail, hhead, hcode⟩ := codePass_append_ok h
  have hlength := codePass_length hhead
  exact ⟨head, tail, hhead, hcode, hlength, fun name hname => hlength ▸ mem_codeLabels hname⟩

/-! ## The image of the data lines fills RAM from offset 0 -/

/-- The offsets of a data line's values are consecutive and inside RAM (30_encoding.md R94). -/
theorem dataValues_offsets {offset : Nat} {tokens : List Text} {image : List (Nat × Nibble)}
    (h : dataValues offset tokens = .ok image) :
    image.map Prod.fst = List.range' offset tokens.length ∧ ∀ e ∈ image, e.1 < Config.ramCells := by
  induction tokens generalizing offset image with
  | nil =>
    obtain rfl := Except.ok.inj h
    exact ⟨rfl, by simp⟩
  | cons token tokens ih =>
    rw [dataValues] at h
    split at h
    · exact nomatch h
    · next v _ =>
      split at h
      · next hroom =>
        split at h
        · next more hmore =>
          obtain ⟨hoffsets, hinside⟩ := ih hmore
          obtain rfl := Except.ok.inj h
          refine ⟨?_, List.forall_mem_cons.mpr ⟨hroom, hinside⟩⟩
          rw [List.map_cons, hoffsets, List.length_cons, List.range'_succ]
        · exact nomatch h
      · exact nomatch h

/-- The data lines share one offset counter, so the offsets of all their values are consecutive (30_encoding.md R94). -/
theorem dataPass_offsets {syms : Symbols} {offset : Nat} {lines : List SourceLine} {image : List (Nat × Nibble)}
    (h : dataPass offset lines = .ok (syms, image)) :
    image.map Prod.fst = List.range' offset image.length ∧ ∀ e ∈ image, e.1 < Config.ramCells := by
  induction lines generalizing offset syms image with
  | nil =>
    obtain ⟨rfl, rfl⟩ := Prod.mk.inj (Except.ok.inj h)
    exact ⟨rfl, by simp⟩
  | cons line lines ih =>
    rw [dataPass] at h
    split at h
    · exact nomatch h
    · next label values _ =>
      split at h
      · exact nomatch h
      · next own hown =>
        split at h
        · exact nomatch h
        · next others hothers =>
          obtain ⟨hownOffsets, hownInside⟩ := dataValues_offsets hown
          obtain ⟨hotherOffsets, hotherInside⟩ := ih hothers
          obtain ⟨rfl, rfl⟩ := Prod.mk.inj (Except.ok.inj h)
          have hlength : own.length = values.length := by simpa using congrArg List.length hownOffsets
          refine ⟨?_, List.forall_mem_append.mpr ⟨hownInside, hotherInside⟩⟩
          rw [List.map_append, hownOffsets, hotherOffsets, List.length_append, hlength, List.range'_append_1]

/-- The image of an assembled text is the image of its data lines. -/
theorem assemble_ok_image {text : Text} {code : List Byte} {image : List (Nat × Nibble)}
    (h : assemble text = .ok code image) :
    ∃ dataSyms, dataPass 0 (splitSections false (sourceLines text)).1 = .ok (dataSyms, image) := by
  simp only [assemble] at h
  split at h
  · exact nomatch h
  · next dataSyms own hdata =>
    split at h
    · exact nomatch h
    · split at h
      · split at h
        · injection h with _ himage
          exact ⟨dataSyms, himage ▸ hdata⟩
        · next e he => exact absurd (h ▸ he) (codePass_error_ne_ok _ code image)
      · exact nomatch h

/-! ## Loading an image -/

theorem Memory.read_writeImage_of_notMem {w : Nat} (m : Memory w) {image : List (Nat × Int)} {a : Nat}
    (h : a ∉ image.map Prod.fst) : (m.writeImage image).read a = m.read a := by
  induction image generalizing m with
  | nil => rfl
  | cons e image ih =>
    obtain ⟨he, himage⟩ := not_or.mp (mt List.mem_cons.mpr h)
    rw [Memory.writeImage, ih _ himage, Memory.read_write_ne m _ he]

/-- An image that names no cell twice puts each of its values into its cell (70_reset_and_hazards.md R252). -/
theorem Memory.read_writeImage_of_mem {w : Nat} (m : Memory w) {image : List (Nat × Int)} {a : Nat} {v : Int}
    (hnodup : (image.map Prod.fst).Nodup) (h : (a, v) ∈ image) :
    (m.writeImage image).read a = BitVec.ofInt w v := by
  induction image generalizing m with
  | nil => exact nomatch h
  | cons e image ih =>
    obtain ⟨hfresh, hnodup⟩ := List.nodup_cons.mp hnodup
    rcases List.mem_cons.mp h with rfl | h
    · rw [Memory.writeImage, Memory.read_writeImage_of_notMem _ hfresh, Memory.read_write_same]
    · exact ih _ hnodup h

/-- LoadProgram refuses nothing that fits ROM and RAM (70_reset_and_hazards.md R252). -/
theorem State.loadProgram_of_fits {s : State} {code : List Byte} {image : List (Nat × Int)}
    (hcode : code.length ≤ Config.romCells) (himage : ∀ e ∈ image, e.1 < Config.ramCells) :
    s.loadProgram code image = .next (s.loadedWith (Config.irOnReset s.resetDraws) code image).countDraw := by
  have hall : image.all (fun e => decide (e.1 < Config.ramCells)) = true := by simpa using himage
  rw [State.loadProgram, if_neg (Nat.not_lt.mpr hcode), if_pos hall]

theorem imageForLoad_offsets (image : List (Nat × Nibble)) :
    (imageForLoad image).map Prod.fst = image.map Prod.fst := by
  simp [imageForLoad]

/-- Settles O58: the offsets of the image are consecutive from 0, so they lie in RAM and none prevails over another. -/
theorem assembledProgramsLoad : Obligations.AssembledProgramsLoad := by
  intro text code image s h hcode
  obtain ⟨dataSyms, hdata⟩ := assemble_ok_image h
  obtain ⟨hoffsets, hinside⟩ := dataPass_offsets hdata
  have hfits : ∀ e ∈ imageForLoad image, e.1 < Config.ramCells := List.forall_mem_map.mpr hinside
  have hnodup : ((imageForLoad image).map Prod.fst).Nodup := by
    rw [imageForLoad_offsets, hoffsets]
    exact List.nodup_range'
  refine ⟨_, State.loadProgram_of_fits hcode hfits, fun (a, v) he => ?_⟩
  have hentry : (a, (v.toNat : Int)) ∈ imageForLoad image := List.mem_map_of_mem he
  rw [State.countDraw_ram, State.loadedWith_ram, Memory.read_writeImage_of_mem _ hnodup hentry,
    BitVec.ofInt_natCast, BitVec.ofNat_toNat, BitVec.setWidth_eq]

end Sys2Proof.Machine

/-! PROOFS. The cycle (40_cycle.md): Fetch, Execute and ResolveInput in each control state, the transitions of the control
state, who writes each element, and the hazards of a wait, of a halt and of an Execute without a Fetch. -/

namespace Sys2Proof

/-! ## The byte after an opcode byte -/

/-- The instruction of a one-byte opcode does not depend on the byte after it: it has one encoding, that opcode byte, and
so one decoding (30_encoding.md R70). -/
theorem decodeByte_oneByte {b : Byte} (h : isTwoByte (opcodeOf b) = false) (t : Byte) :
    decodeByte b t = decodeByte b 0 := by
  have hencode : encode (decodeByte b t) = [b] := by simp [encode_decodeByte, h]
  have hown : decode [b] = .instr (decodeByte b t) [] := by
    simpa [hencode] using decodeOfEncodeIsTheInstruction (decodeByte b t) [] (wellFormed_decodeByte b t)
  have hzero : decode [b] = .instr (decodeByte b 0) [] := decode_oneByte [] h
  injection hown.symm.trans hzero

/-- Two bytes decode to the instruction that Execute performs when they are IR and `ROM[PC]` (44_control.md R170). -/
theorem decode_pair {b t : Byte} {i : Instr} {rest : List Byte} (h : decode [b, t] = .instr i rest) :
    i = decodeByte b t := by
  cases hb : isTwoByte (opcodeOf b) with
  | true =>
    injection (decode_twoByte t [] hb).symm.trans h with hi
    exact hi.symm
  | false =>
    injection (decode_oneByte [t] hb).symm.trans h with hi
    rw [decodeByte_oneByte hb t, hi]

theorem decodeTableWord_some {nbits w : Nat} {i : Instr} (h : decodeTableWord nbits w = some i) :
    i = decodeByte (bytesOfWord nbits w).1 (bytesOfWord nbits w).2 := by
  unfold decodeTableWord at h
  split at h
  · next j rest hdecode =>
    injection h with h
    exact h ▸ decode_pair hdecode
  · exact nomatch h
  · exact nomatch h

/-- JMP's opcode byte, whatever its ignored nibble (30_encoding.md R72). -/
theorem decodeByte_jmp (x : Nibble) (t : Byte) : decodeByte (0xB#4 ++ x) t = .jmp x t := by
  rw [← packByte_eq_append]
  simp [decodeByte]

/-- CALL's opcode byte, whatever its ignored nibble (30_encoding.md R72). -/
theorem decodeByte_call (x : Nibble) (t : Byte) : decodeByte (0xE#4 ++ x) t = .call x t := by
  rw [← packByte_eq_append]
  simp [decodeByte]

end Sys2Proof

namespace Sys2Proof.Machine

variable {i : Instr} {op : Operation} {s t : State}

/-! ## Fetch, Execute and Cycle by control state -/

/-- Every instruction answers a next state (60_exceptions.md R220). -/
theorem exec_answers (i : Instr) (s : State) : ∃ t, exec i s = .next t := by
  obtain ⟨t, ht, -⟩ := exec_withRom i s s.rom
  exact ⟨t, ht⟩

theorem State.execute_eq (s : State) :
    s.execute = if s.state = .running then exec s.currentInstr s else .next s := by
  split
  · next hs => exact State.execute_running hs
  · next hs => exact State.execute_stopped hs

/-- Execute answers a next state, whatever the control state. -/
theorem State.execute_answers (s : State) : ∃ t, s.execute = .next t := by
  rw [State.execute_eq]
  split
  · exact exec_answers s.currentInstr s
  · exact ⟨s, rfl⟩

theorem State.fetched_currentInstr (s : State) :
    s.fetched.currentInstr = decodeByte (s.readRom s.pc) (s.readRom (s.pc + 1)) := rfl

theorem State.fetch_state (s : State) : s.fetch.state = s.state := by
  rcases s.fetch_cases with h | h
  · rw [h, State.fetched_state]
  · rw [h]

/-- In `Running`, a step is Fetch and then Execute (40_cycle.md R116). -/
theorem step_eq_fetch_execute (hs : s.state = .running) : step s = s.fetch.execute := by
  rw [step_running hs, State.fetch_of_not_halted (by simp [hs]), State.execute_running (s := s.fetched) hs]

/-- Settles O28: the wrap is that of the 8-bit PC. -/
theorem fetchLoadsIrUnlessHalted : Obligations.FetchLoadsIrUnlessHalted := by
  refine fun s => ⟨State.fetch_halted, fun hs => ⟨s.fetched, State.fetch_of_not_halted hs, rfl, ?_⟩⟩
  rw [State.fetched_pc, BitVec.toNat_add]
  rfl

/-- Settles O29: neither of the two states is `Running`. -/
theorem executeIsGated : Obligations.ExecuteIsGated := by
  intro s hs
  refine State.execute_stopped fun hrunning => ?_
  rcases hs with hs | hs
  · exact nomatch hs.symm.trans hrunning
  · exact nomatch hs.symm.trans hrunning

/-- Settles O30: Execute answers because every instruction does. -/
theorem cycleIsFetchThenExecute : Obligations.CycleIsFetchThenExecute :=
  fun s => ⟨fun hs => ⟨State.execute_running hs, s.execute_answers, step_eq_fetch_execute hs⟩, step_stopped⟩

/-- Settles O5: what the two bytes decode to is the instruction of the fetched state. -/
theorem stepRunsTheDecodedInstruction : Obligations.StepRunsTheDecodedInstruction := by
  intro s i rest hs hdecode
  rw [decode_pair hdecode]
  exact ⟨wellFormed_decodeByte _ _, step_running hs⟩

/-! ## The word placed for a fetch -/

section Placed

variable (s : State) (b t : Byte)

theorem State.readRom_placeInstr_pc : (s.placeInstr b t).readRom s.pc = b := by
  show ((s.writeRom s.pc b).writeRom (s.pc + 1) t).readRom s.pc = b
  have hne : s.pc ≠ s.pc + 1 := by bv_omega
  rw [State.readRom_writeRom, if_neg hne, State.readRom_writeRom, if_pos rfl]

theorem State.readRom_placeInstr_next : (s.placeInstr b t).readRom (s.pc + 1) = t := by
  show ((s.writeRom s.pc b).writeRom (s.pc + 1) t).readRom (s.pc + 1) = t
  rw [State.readRom_writeRom, if_pos rfl]

/-- What the next step runs after two bytes were placed: their instruction (log 10). -/
theorem step_placeInstr : step (s.placeInstr b t) = exec (decodeByte b t) (s.placeInstr b t).fetched := by
  have hinstr : (s.placeInstr b t).fetched.currentInstr =
      decodeByte ((s.placeInstr b t).readRom s.pc) ((s.placeInstr b t).readRom (s.pc + 1)) := rfl
  rw [step_running rfl, hinstr, State.readRom_placeInstr_pc, State.readRom_placeInstr_next]

end Placed

/-- Settles O6: the placed bytes are those that the next Fetch and Execute read. -/
theorem placedWordRunsNext : Obligations.PlacedWordRunsNext := by
  intro s nbits w i h
  rw [decodeTableWord_some h]
  exact step_placeInstr s _ _

/-! ## ResolveInput -/

/-- Settles O31: the two cases of `State.resolveInput_cases`. -/
theorem resolveInputCompletesTheLda : Obligations.ResolveInputCompletesTheLda := by
  intro value s
  rcases s.resolveInput_cases value with ⟨hwaiting, hr⟩ | ⟨hother, hr⟩
  · refine ⟨fun h => absurd hwaiting h, fun _ => ⟨_, congrArg Host.Outcome.next hr, rfl, ?_, ?_, fun a => ?_⟩⟩
    · exact toNibble_toNat value
    · exact zeroFlag_iff (toNibble value)
    · exact Memory.read_write s.ram 14 a (toNibble value)
  · exact ⟨fun _ => congrArg _ hr, fun h => absurd h hother⟩

/-! ## The transitions of the control state -/

/-- The control state that an instruction run in `Running` leaves (40_cycle.md R118). -/
def controlAfter : Instr → Control
  | .lda n => if n = 14 then .waitingForInput else .running
  | .hlt => .halted
  | _ => .running

theorem exec_state (hs : s.state = .running) (h : exec i s = .next t) : t.state = controlAfter i := by
  apply exec_cases (P := fun i t => t.state = controlAfter i) h
  case lda => exact fun n hn => hs.trans (if_neg hn).symm
  case ldaPort | hlt | rst => rfl
  all_goals intros; exact hs

theorem execute_state (h : s.execute = .next t) :
    t.state = if s.state = .running then controlAfter s.currentInstr else s.state := by
  by_cases hs : s.state = .running
  · rw [if_pos hs]
    exact exec_state hs (State.execute_running hs ▸ h)
  · rw [State.execute_stopped hs] at h
    injection h with h
    rw [if_neg hs, h]

theorem step_state (h : step s = .next t) :
    t.state = if s.state = .running then controlAfter s.fetched.currentInstr else s.state := by
  by_cases hs : s.state = .running
  · rw [if_pos hs]
    exact exec_state (s := s.fetched) hs (step_running hs ▸ h)
  · rw [step_stopped hs] at h
    injection h with h
    rw [if_neg hs, h]

theorem resolveInput_state (value : Int) (s : State) :
    (s.resolveInput value).state = if s.state = .waitingForInput then .running else s.state := by
  rcases s.resolveInput_cases value with ⟨hwaiting, hr⟩ | ⟨hother, hr⟩
  · rw [hr, if_pos hwaiting]
  · rw [hr, if_neg hother]

/-- Settles O36: one lemma for each operation that can change the control state. -/
theorem controlStateChangesOnlyAsTabled : Obligations.ControlStateChangesOnlyAsTabled := by
  intro op s t h
  cases op with
  | loadProgram code image =>
    obtain ⟨-, -, rfl⟩ := State.loadProgram_next h
    rfl
  | fetch =>
    injection h with h
    exact h ▸ s.fetch_state
  | execute => exact execute_state h
  | cycle => exact step_state h
  | resolveInput value =>
    injection h with h
    exact h ▸ resolveInput_state value s
  | reset =>
    injection h with h
    exact h ▸ s.softReset_state
  | toggleSwitch k =>
    injection h with h
    exact h ▸ s.toggleSwitch_state k

/-! ## Who writes each element -/

/-- Settles O38: the cases below are those in which an instruction writes under a condition: a load or a store by its
address, a push by the room on the stack, a pop by the entry it takes. In every other case the lemmas per field say what
is kept. -/
theorem eachElementHasOnlyItsWriters : Obligations.EachElementHasOnlyItsWriters := by
  intro i s t h
  apply exec_cases h
  case lda =>
    intro n hn
    have hport : n ≠ 14#4 := hn
    simp [hport]
  case staPort => simp +contextual [Memory.read_write]
  case sta =>
    intro n _
    simp +contextual [Memory.read_write]
  case stai =>
    intro n
    simp +contextual [Memory.read_write, State.pointerTarget]
  case call =>
    intro x a sp hroom _
    simp +contextual [Memory.read_write, hroom, Nat.ne_of_lt hroom]
  case push =>
    intro sp hroom _
    simp +contextual [Memory.read_write, hroom, Nat.ne_of_lt hroom]
  case pop =>
    intro sp hsome _
    simp [hsome]
  case ret =>
    intro sp hsome _
    simp [hsome]
  all_goals intros; simp

/-! ## Operations in a row -/

theorem performAll_cons_of_next {ops : List Operation} (h : perform op s = .next t) :
    performAll (op :: ops) s = performAll ops t := by
  rw [performAll, h]

theorem performAll_append_of_next {before after : List Operation} (h : performAll before s = .next t) :
    performAll (before ++ after) s = performAll after t := by
  induction before generalizing s with
  | nil =>
    injection h with h
    exact h ▸ rfl
  | cons op before ih =>
    obtain ⟨s', hfirst, hrest⟩ := performAll_cons_next h
    exact (performAll_cons_of_next hfirst).trans (ih hrest)

/-! ## Stopped states -/

/-- In the control state `k` the operation changes nothing, or it is a ToggleSwitch. -/
def Operation.InertIn (k : Control) (op : Operation) : Prop :=
  (∃ i, op = .toggleSwitch i) ∨ ∀ s : State, s.state = k → perform op s = .next s

theorem Operation.inertIn_of_stopped {k : Control} (hk : k ≠ .running)
    (h : op = .cycle ∨ op = .execute ∨ ∃ i, op = .toggleSwitch i) : op.InertIn k := by
  rcases h with rfl | rfl | ⟨i, rfl⟩
  · exact .inr fun s hs => step_stopped (hs ▸ hk)
  · exact .inr fun s hs => State.execute_stopped (hs ▸ hk)
  · exact .inl ⟨i, rfl⟩

/-- In `Halted` only Reset and LoadProgram act, and ToggleSwitch on SW (40_cycle.md R119, log 12). -/
theorem Operation.inertIn_halted (h : op ≠ .reset ∧ ∀ code image, op ≠ .loadProgram code image) :
    op.InertIn .halted := by
  obtain ⟨hreset, hload⟩ := h
  cases op with
  | loadProgram code image => exact absurd rfl (hload code image)
  | reset => exact absurd rfl hreset
  | fetch => exact .inr fun s hs => congrArg _ (State.fetch_halted hs)
  | resolveInput value =>
    exact .inr fun s hs => (resolveInputCompletesTheLda value s).1 (by simp [hs])
  | execute | cycle | toggleSwitch i => exact Operation.inertIn_of_stopped (by simp) (by simp)

/-- A list of inert operations changes nothing but SW, and nothing at all without a ToggleSwitch. -/
theorem performAll_of_inert {k : Control} {ops : List Operation} (hops : ∀ op ∈ ops, op.InertIn k)
    (hs : s.state = k) :
    ∃ t, performAll ops s = .next t ∧ t = { s with sw := t.sw } ∧
      ((∀ op ∈ ops, ∀ i, op ≠ .toggleSwitch i) → t = s) := by
  induction ops generalizing s with
  | nil => exact ⟨s, rfl, rfl, fun _ => rfl⟩
  | cons op ops ih =>
    obtain ⟨hop, hrest⟩ := List.forall_mem_cons.mp hops
    rcases hop with ⟨i, rfl⟩ | hsame
    · obtain ⟨t, ht, hframe, -⟩ := ih hrest (s := s.toggleSwitch i) hs
      exact ⟨t, ht, hframe, fun hnone => absurd rfl (hnone _ List.mem_cons_self i)⟩
    · obtain ⟨t, ht, hframe, hkept⟩ := ih hrest hs
      refine ⟨t, (performAll_cons_of_next (hsame s hs)).trans ht, hframe, fun hnone => hkept ?_⟩
      exact (List.forall_mem_cons.mp hnone).2

/-- Settles O44: each of the operations is inert in `Halted`. -/
theorem haltedIsFinal : Obligations.HaltedIsFinal :=
  fun _ _ hs hops => performAll_of_inert (fun op hop => Operation.inertIn_halted (hops op hop)) hs

/-- Settles O45: each of the operations is inert in `WaitingForInput`. -/
theorem waitingGoesOnUntilTheHostActs : Obligations.WaitingGoesOnUntilTheHostActs :=
  fun _ _ hs hops => performAll_of_inert (fun op hop => Operation.inertIn_of_stopped (by simp) (hops op hop)) hs

/-! ## The input port -/

/-- The cycle of the byte 0x1E, LDA [14], fetches it and begins the wait (41_data.md R131). -/
theorem cycle_of_ldaPort (hs : s.state = .running) (hbyte : s.readRom s.pc = 0x1E) :
    perform .cycle s = .next s.fetched.suspend := by
  have hinstr : s.fetched.currentInstr = .lda 14 := by
    rw [State.fetched_currentInstr, hbyte]
    rfl
  show step s = .next s.fetched.suspend
  rw [step_running hs, hinstr]
  rfl

/-- Cycles in `WaitingForInput` change nothing at all (40_cycle.md R119). -/
theorem performAll_cycles_waiting (k : Nat) (hs : s.state = .waitingForInput) :
    performAll (List.replicate k .cycle) s = .next s := by
  have hcycle (op : Operation) (hop : op ∈ List.replicate k .cycle) : op = .cycle := List.eq_of_mem_replicate hop
  obtain ⟨t, ht, -, hsame⟩ := waitingGoesOnUntilTheHostActs _ s hs fun op hop => .inl (hcycle op hop)
  rw [ht, hsame fun op hop i => by simp [hcycle op hop]]

/-- Settles O46: the cycle begins the wait, the further ones keep it, and ResolveInput completes the load (O31). -/
theorem inputPortRoundTrip : Obligations.InputPortRoundTrip := by
  intro k value s hs hbyte
  obtain ⟨t, ht, hframe, hacc, hz, hram⟩ :=
    (resolveInputCompletesTheLda value s.fetched.suspend).2 rfl
  refine ⟨t, ?_, ?_, hacc, hz, hram⟩
  · rw [List.cons_append, performAll_cons_of_next (cycle_of_ldaPort hs hbyte),
      performAll_append_of_next (performAll_cycles_waiting k rfl), performAll_cons_of_next ht]
    rfl
  · rw [hframe, ← hs, ← hbyte]
    rfl

/-! ## Two Executes without a Fetch -/

/-- IR is written by RST alone (40_cycle.md R115). -/
theorem exec_keeps_ir (h : exec i s = .next t) (hi : i ≠ .rst) : t.ir = s.ir := by
  revert hi
  apply exec_cases (P := fun i t => i ≠ .rst → t.ir = s.ir) h
  case rst => exact fun hi => absurd rfl hi
  all_goals intros; rfl

/-- The second of two Executes runs in the state that the first left. -/
theorem performAll_execute_twice (h : s.execute = .next t) : performAll [.execute, .execute] s = t.execute := by
  obtain ⟨u, hu⟩ := t.execute_answers
  have hfirst : perform .execute s = .next t := h
  have hsecond : perform .execute t = .next u := hu
  rw [performAll_cons_of_next hfirst, performAll_cons_of_next hsecond, hu]
  rfl

/-- CALL jumps, and pushes the address after its operand byte unless the stack is full (44_control.md R183). -/
theorem exec_call (x : Nibble) (a : Byte) (s : State) :
    ∃ sp stack, exec (.call x a) s = .next { s with pc := a, sp := sp, stack := stack } ∧
      sp.val = min 16 (s.sp.val + 1) ∧
      ∀ k : Nat, stack.read k = if k = s.sp.val ∧ s.sp.val < 16 then s.pc + 1 else s.stack.read k := by
  have hsp := s.sp.isLt
  by_cases hroom : s.sp.val < 16
  · refine ⟨⟨s.sp.val + 1, by omega⟩, s.stack.write s.sp.val (s.pc + 1), ?_, by simp only; omega, fun k => ?_⟩
    · rw [exec, execCall, State.pushByte_room s _ hroom]
      rfl
    · rw [Memory.read_write]
      simp [hroom]
  · refine ⟨s.sp, s.stack, ?_, by omega, fun k => by simp [hroom]⟩
    rw [exec, execCall, State.pushByte_full s _ (by omega)]
    rfl

/-- Execute of a JMP takes its target from the byte at PC (44_control.md R180). -/
theorem State.execute_of_jmp {x : Nibble} (hs : s.state = .running) (hir : s.ir = 0xB#4 ++ x) :
    s.execute = .next (s.jumpTo (s.readRom s.pc)) := by
  rw [State.execute_running hs, State.currentInstr, hir, decodeByte_jmp]
  rfl

/-- Execute of a CALL takes its target from the byte at PC (44_control.md R183). -/
theorem State.execute_of_call {x : Nibble} (hs : s.state = .running) (hir : s.ir = 0xE#4 ++ x) :
    ∃ sp stack, s.execute = .next { s with pc := s.readRom s.pc, sp := sp, stack := stack } ∧
      sp.val = min 16 (s.sp.val + 1) ∧
      ∀ k : Nat, stack.read k = if k = s.sp.val ∧ s.sp.val < 16 then s.pc + 1 else s.stack.read k := by
  have hinstr : s.currentInstr = .call x (s.readRom s.pc) := by
    rw [State.currentInstr, hir, decodeByte_call]
  rw [State.execute_running hs, hinstr]
  exact exec_call x (s.readRom s.pc) s

/-- Two Executes of a CALL: the second pushes the address after the first target, and takes its own target from there. -/
theorem performAll_execute_twice_call {x : Nibble} (hs : s.state = .running) (hir : s.ir = 0xE#4 ++ x) :
    ∃ sp stack, performAll [.execute, .execute] s =
        .next { s with pc := s.readRom (s.readRom s.pc), sp := sp, stack := stack } ∧
      sp.val = min 16 (s.sp.val + 2) ∧
      ∀ k : Nat, stack.read k =
        if k = s.sp.val ∧ s.sp.val < 16 then s.pc + 1
        else if k = s.sp.val + 1 ∧ s.sp.val < 15 then s.readRom s.pc + 1
        else s.stack.read k := by
  obtain ⟨sp, stack, hfirst, hsp, hstack⟩ := State.execute_of_call hs hir
  obtain ⟨sp', stack', hsecond, hsp', hstack'⟩ :=
    State.execute_of_call (s := { s with pc := s.readRom s.pc, sp := sp, stack := stack }) hs hir
  simp only at hsp' hstack'
  refine ⟨sp', stack', (performAll_execute_twice hfirst).trans hsecond, by omega, fun k => ?_⟩
  have hcell : (k = sp.val ∧ sp.val < 16) ↔ (k = s.sp.val + 1 ∧ s.sp.val < 15) := by omega
  simp only [hstack', hstack, hcell]
  by_cases hcall : k = s.sp.val ∧ s.sp.val < 16
  · have hother : ¬ (k = s.sp.val + 1 ∧ s.sp.val < 15) := by omega
    rw [if_pos hcall, if_neg hother, if_pos hcall]
  · rw [if_neg hcall, if_neg hcall]

/-- Settles O50: the second Execute runs in the state that the first left, and no instruction changes ROM. -/
theorem executeTwiceRunsIrTwice : Obligations.ExecuteTwiceRunsIrTwice := by
  refine ⟨fun s hs => ?_, fun x s hs hir => ?_, fun x s hs hir => ?_⟩
  · obtain ⟨t, ht⟩ := exec_answers s.currentInstr s
    have hexecute : s.execute = .next t := (State.execute_running hs).trans ht
    have hinstr : t.currentInstr = decodeByte t.ir (s.readRom t.pc) := by
      rw [State.currentInstr, State.readRom, exec_keeps_rom ht, State.readRom]
    refine ⟨t, hexecute, exec_keeps_ir ht, ?_⟩
    rw [performAll_execute_twice hexecute, State.execute_eq, hinstr]
  · have hsecond := State.execute_of_jmp (s := s.jumpTo (s.readRom s.pc)) hs hir
    exact (performAll_execute_twice (State.execute_of_jmp hs hir)).trans hsecond
  · obtain ⟨sp, stack, htwice, hsp, hstack⟩ := performAll_execute_twice_call hs hir
    exact ⟨_, htwice, rfl, hsp, hstack⟩

end Sys2Proof.Machine

/-! PROOFS. Data movement (41_data.md): NOP, LDA, LDI and STA, each with the bytes that decode to it. -/

namespace Sys2Proof

/-- A byte that is the whole encoding of an instruction decodes to it, whatever byte comes after (30_encoding.md R71,
R73). -/
theorem decodeByte_of_encode {i : Instr} {op n : Nibble} (hwf : WellFormed i = true) (h : encode i = formatA op n)
    (t : Byte) : decodeByte (op ++ n) t = i := by
  have hdecode : decode [op ++ n, t] = .instr i [t] := by
    rw [← decodeOfEncodeIsTheInstruction i [t] hwf, h, formatA, packByte_eq_append]
    rfl
  exact (decode_pair hdecode).symm

end Sys2Proof

namespace Sys2Proof.Machine

/-- LDA of every address but the input port loads the cell and sets Z (41_data.md R131). -/
theorem exec_lda_of_ne {n : Nibble} (s : State) (hn : n ≠ 14) : exec (.lda n) s = .next (s.setAccZ (s.readRam n)) :=
  if_neg hn

/-- STA writes the cell, and LED with it when the cell is the output port (41_data.md R133). -/
theorem exec_sta (n : Nibble) (s : State) :
    exec (.sta n) s = .next ((s.writeRam n s.acc).setLed (if n = 15 then s.acc else s.led)) := by
  by_cases hn : n = 15
  · rw [exec, execSta, if_pos hn, if_pos hn]
  · rw [exec, execSta, if_neg hn, if_neg hn]
    rfl

/-- Settles O7: the bytes are the encodings of NOP, whose meaning is the state it was given. -/
theorem nopChangesNothing : Obligations.NopChangesNothing :=
  ⟨fun _ t => decodeByte_of_encode rfl rfl t, fun _ _ => rfl⟩

/-- Settles O8: the input port suspends, every other address is a load with Z. -/
theorem ldaLoadsOrSuspends : Obligations.LdaLoadsOrSuspends :=
  ⟨fun _ t => decodeByte_of_encode rfl rfl t, fun _ => rfl, fun _ s hn => exec_lda_of_ne s hn⟩

/-- Settles O9: the meaning is the write of ACC that defines Z. -/
theorem ldiLoadsTheImmediate : Obligations.LdiLoadsTheImmediate :=
  ⟨fun _ t => decodeByte_of_encode rfl rfl t, fun _ _ => rfl⟩

/-- Settles O10: the state that `exec_sta` gives differs in RAM and LED only, and RAM reads as after one write. -/
theorem staStoresAndDrivesLed : Obligations.StaStoresAndDrivesLed := by
  refine ⟨fun _ t => decodeByte_of_encode rfl rfl t, fun n s => ⟨_, exec_sta n s, rfl, rfl, fun a => ?_⟩⟩
  exact Memory.read_write s.ram n.toNat a s.acc

end Sys2Proof.Machine

/-! PROOFS. The ALU (42_alu.md): ADD, SUB, AND, OR and XOR, each with the bytes that decode to it, and the flags after
every instruction. -/

namespace Sys2Proof.Machine

/-! ## Results and flags of the exact sum and difference -/

theorem carryFlag_exactSum_iff (a b : Nibble) : carryFlag (exactSum a b) = true ↔ 15 < a.toNat + b.toNat := by
  rw [carryFlag_iff, exactSum]
  omega

theorem borrowFlag_exactDifference_iff (a b : Nibble) :
    borrowFlag (exactDifference a b) = true ↔ a.toNat < b.toNat := by
  rw [borrowFlag_iff, exactDifference]
  omega

theorem toNibble_exactSum_toNat (a b : Nibble) : (toNibble (exactSum a b)).toNat = (a.toNat + b.toNat) % 16 := by
  have hresult := toNibble_toNat (exactSum a b)
  rw [exactSum] at hresult ⊢
  omega

/-! ## The flag table -/

/-- Settles O37: the instructions that write ACC with Z leave Z as the write defines it, ADD and SUB leave the carry and
the borrow of the operands, RST clears both flags, and what is left writes neither. -/
theorem flagsFollowTheFlagTable : Obligations.FlagsFollowTheFlagTable := by
  intro i s t h
  apply exec_cases h
  case lda => exact fun n hn => ⟨(if_neg hn).mpr rfl, rfl⟩
  case add =>
    intro n
    have hcarry := carryFlag_exactSum_iff s.acc (s.readRam n)
    exact ⟨rfl, Bool.eq_iff_iff.mpr (hcarry.trans decide_eq_true_iff.symm)⟩
  case sub =>
    intro n
    have hborrow := borrowFlag_exactDifference_iff s.acc (s.readRam n)
    exact ⟨rfl, Bool.eq_iff_iff.mpr (hborrow.trans decide_eq_true_iff.symm)⟩
  all_goals intros; exact ⟨rfl, rfl⟩

/-! ## The instructions -/

/-- Settles O11: the exact sum, narrowed to the nibble of ACC and compared with 15 for C. -/
theorem addIsTheSumModSixteen : Obligations.AddIsTheSumModSixteen := by
  refine ⟨fun _ t => decodeByte_of_encode rfl rfl t, fun n s => ⟨_, rfl, rfl, ?_, ?_, zeroFlag_iff _⟩⟩
  · exact toNibble_exactSum_toNat s.acc (s.readRam n)
  · exact carryFlag_exactSum_iff s.acc (s.readRam n)

/-- Settles O12: the exact difference, narrowed to the nibble of ACC and compared with 0 for C. -/
theorem subIsTheDifferenceModSixteen : Obligations.SubIsTheDifferenceModSixteen := by
  refine ⟨fun _ t => decodeByte_of_encode rfl rfl t, fun n s => ⟨_, rfl, rfl, ?_, ?_, zeroFlag_iff _⟩⟩
  · exact toNibble_toNat (exactDifference s.acc (s.readRam n))
  · exact borrowFlag_exactDifference_iff s.acc (s.readRam n)

/-- A bitwise operation that is `g` on each bit changes ACC and Z only, ACC bit by bit (42_alu.md R145 to R147). -/
theorem State.bitwise_bits {f : Nibble → Nibble → Nibble} {g : Bool → Bool → Bool}
    (hbits : ∀ (a b : Nibble) (k : Nat), (f a b).getLsbD k = g (a.getLsbD k) (b.getLsbD k)) (n : Nibble) (s : State) :
    s.bitwise f n = { s with acc := (s.bitwise f n).acc, z := (s.bitwise f n).z } ∧
      ((s.bitwise f n).z = true ↔ (s.bitwise f n).acc = 0) ∧
      ∀ k : Nat, (s.bitwise f n).acc.getLsbD k = g (s.acc.getLsbD k) ((s.readRam n).getLsbD k) :=
  ⟨rfl, zeroFlag_iff _, hbits s.acc (s.readRam n)⟩

/-- Settles O13: each of the three is a bitwise operation, with the library's lemma for its bits. -/
theorem bitwiseWorksBitByBit : Obligations.BitwiseWorksBitByBit := by
  refine ⟨fun _ t => ?_, fun n s => ⟨⟨_, rfl, ?_⟩, ⟨_, rfl, ?_⟩, ⟨_, rfl, ?_⟩⟩⟩
  · exact ⟨decodeByte_of_encode rfl rfl t, decodeByte_of_encode rfl rfl t, decodeByte_of_encode rfl rfl t⟩
  · exact State.bitwise_bits (fun _ _ _ => BitVec.getLsbD_and) n s
  · exact State.bitwise_bits (fun _ _ _ => BitVec.getLsbD_or) n s
  · exact State.bitwise_bits (fun _ _ _ => BitVec.getLsbD_xor) n s

end Sys2Proof.Machine

/-! PROOFS. Indirect load and store (43_indirect.md): LDAI and STAI, each with the bytes that decode to it. -/

namespace Sys2Proof.Machine

/-- LDAI is the write of ACC that defines Z, from the target's cell: at 14 it does not wait (43_indirect.md R160,
92_eei_decisions.md D7). -/
theorem exec_ldai (n : Nibble) (s : State) :
    exec (.ldai n) s = .next (s.setAccZ (s.readRam (s.pointerTarget n))) := rfl

/-- STAI is one write of RAM: at 15 it leaves LED alone (43_indirect.md R161, 92_eei_decisions.md D8). -/
theorem exec_stai (n : Nibble) (s : State) :
    exec (.stai n) s = .next (s.writeRam (s.pointerTarget n) s.acc) := rfl

/-- Settles O14: the target of `exec_ldai` is the cell at n. -/
theorem ldaiLoadsThroughThePointer : Obligations.LdaiLoadsThroughThePointer :=
  ⟨fun _ t => decodeByte_of_encode rfl rfl t, exec_ldai⟩

/-- Settles O15: the state that `exec_stai` gives differs in RAM only, and RAM reads as after one write at the target
that the old state holds. -/
theorem staiStoresThroughThePointer : Obligations.StaiStoresThroughThePointer := by
  refine ⟨fun _ t => decodeByte_of_encode rfl rfl t, fun n s => ⟨rfl, _, exec_stai n s, rfl, fun a => ?_⟩⟩
  exact Memory.read_write s.ram (s.pointerTarget n).toNat a s.acc

end Sys2Proof.Machine

/-! PROOFS. Control transfer (44_control.md): JMP, JZ, JC and CALL, each with the bytes that decode to it, and CALLs undone
by as many RETs. -/

namespace Sys2Proof

/-- An opcode byte and an operand byte that are the encoding of an instruction decode to it (30_encoding.md R72). -/
theorem decodeByte_of_encode_formatB {i : Instr} {op x : Nibble} {t : Byte} (hwf : WellFormed i = true)
    (h : encode i = formatB op x t) : decodeByte (op ++ x) t = i := by
  have hdecode : decode [op ++ x, t] = .instr i [] := by
    rw [← decodeOfEncodeIsTheInstruction i [] hwf, h, formatB, packByte_eq_append]
    rfl
  exact (decode_pair hdecode).symm

end Sys2Proof

namespace Sys2Proof.Machine

variable {i : Instr} {s t : State}

/-! ## Branches -/

/-- A branch writes PC alone: the target, or the address after the operand byte (44_control.md R170). -/
theorem State.branch_eq_jumpTo (taken : Bool) (a : Byte) (s : State) :
    s.branch taken a = s.jumpTo (if taken then a else s.pc + 1) := by
  cases taken with
  | true => rfl
  | false => rfl

theorem exec_jmp (x : Nibble) (a : Byte) (s : State) : exec (.jmp x a) s = .next (s.jumpTo a) := rfl

theorem exec_jz (x : Nibble) (a : Byte) (s : State) :
    exec (.jz x a) s = .next (s.jumpTo (if s.z then a else s.pc + 1)) :=
  congrArg _ (State.branch_eq_jumpTo s.z a s)

theorem exec_jc (x : Nibble) (a : Byte) (s : State) :
    exec (.jc x a) s = .next (s.jumpTo (if s.c then a else s.pc + 1)) :=
  congrArg _ (State.branch_eq_jumpTo s.c a s)

/-! ## Execute of a two-byte instruction -/

/-- With the opcode byte in IR, the instruction to perform takes `ROM[PC]` as its operand (44_control.md R170). -/
theorem State.currentInstr_of_encode {op x : Nibble} (hir : s.ir = op ++ x) (hwf : WellFormed i = true)
    (h : encode i = formatB op x (s.readRom s.pc)) : s.currentInstr = i := by
  rw [State.currentInstr, hir]
  exact decodeByte_of_encode_formatB hwf h

/-- In `Running`, Execute does what the instruction to perform does (40_cycle.md R112). -/
theorem State.execute_of_exec (hs : s.state = .running) (hinstr : s.currentInstr = i) (h : exec i s = .next t) :
    s.execute = .next t := by
  rw [State.execute_running hs, hinstr, h]

/-- Settles O16: the meaning of JMP is the jump, and IR with `ROM[PC]` is its encoding. -/
theorem jmpTakesItsTarget : Obligations.JmpTakesItsTarget := by
  refine ⟨exec_jmp, fun x s hs hir => ?_⟩
  have hinstr : s.currentInstr = .jmp x (s.readRom s.pc) := State.currentInstr_of_encode hir rfl rfl
  exact ⟨hinstr, State.execute_of_exec hs hinstr (exec_jmp x _ s)⟩

/-- Settles O17: the meaning of JZ is the branch on Z, and IR with `ROM[PC]` is its encoding. -/
theorem jzJumpsOnZero : Obligations.JzJumpsOnZero := by
  refine ⟨exec_jz, fun x s hs hir => ?_⟩
  have hinstr : s.currentInstr = .jz x (s.readRom s.pc) := State.currentInstr_of_encode hir rfl rfl
  exact ⟨hinstr, State.execute_of_exec hs hinstr (exec_jz x _ s)⟩

/-- Settles O18: the meaning of JC is the branch on C, and IR with `ROM[PC]` is its encoding. -/
theorem jcJumpsOnCarry : Obligations.JcJumpsOnCarry := by
  refine ⟨exec_jc, fun x s hs hir => ?_⟩
  have hinstr : s.currentInstr = .jc x (s.readRom s.pc) := State.currentInstr_of_encode hir rfl rfl
  exact ⟨hinstr, State.execute_of_exec hs hinstr (exec_jc x _ s)⟩

/-- Settles O19: `exec_call` gives the state that CALL leaves. -/
theorem callPushesAndJumps : Obligations.CallPushesAndJumps := by
  refine ⟨fun x s hir => State.currentInstr_of_encode hir rfl rfl, fun x target s => ?_⟩
  obtain ⟨sp, stack, hcall, hsp, hstack⟩ := exec_call x target s
  exact ⟨_, hcall, rfl, hsp, hstack⟩

/-! ## Meanings in a row -/

theorem execAll_cons_of_next {is : List Instr} (h : exec i s = .next t) : execAll (i :: is) s = execAll is t := by
  rw [execAll, h]

theorem execAll_append_of_next {before after : List Instr} (h : execAll before s = .next t) :
    execAll (before ++ after) s = execAll after t := by
  induction before generalizing s with
  | nil =>
    injection h with h
    exact h ▸ rfl
  | cons i before ih =>
    obtain ⟨u, hfirst⟩ := exec_answers i s
    rw [execAll_cons_of_next hfirst] at h
    exact (execAll_cons_of_next hfirst).trans (ih h)

/-! ## CALLs and as many RETs -/

/-- A pop from a stack whose top entry lies at `sp` (45_extended.md R196, R197). -/
theorem State.popByte_of_sp {sp : Fin 17} (hsp : s.sp.val = sp.val + 1) :
    s.popByte = some (s.readStack sp.val, { s with sp := sp }) := by
  have hpred : s.sp.val - 1 = sp.val := by omega
  rw [State.popByte, if_pos (by omega)]
  simp only [hpred]

/-- RET jumps to the entry below SP and takes it off the stack (45_extended.md R197). -/
theorem exec_ret_of_sp {sp : Fin 17} (hsp : s.sp.val = sp.val + 1) :
    exec .ret s = .next { s with pc := s.stack.read sp.val, sp := sp } := by
  rw [exec, execRet, State.popByte_of_sp hsp]
  rfl

/-- Settles O48, by induction on the CALLs: the ones after the first, with their RETs, keep the first's return address
below SP, and the last RET takes it. -/
theorem nestedCallsReturn : Obligations.NestedCallsReturn := by
  intro calls s hroom
  induction calls generalizing s with
  | nil => exact ⟨s, rfl, rfl, rfl, fun _ _ => rfl⟩
  | cons p calls ih =>
    rw [List.length_cons] at hroom
    obtain ⟨sp, stack, hcall, hsp, hstack⟩ := exec_call p.1 p.2 s
    have hpushed : sp.val = s.sp.val + 1 := by omega
    obtain ⟨u, hinner, hframe, -, hkept⟩ :=
      ih { s with pc := p.2, sp := sp, stack := stack } (by simp only; omega)
    simp only [hpushed] at hkept
    have hret : exec .ret u = .next { u with pc := u.stack.read s.sp.val, sp := s.sp } :=
      exec_ret_of_sp ((congrArg (fun v : State => v.sp.val) hframe).trans hpushed)
    have hreturn : u.stack.read s.sp.val = s.pc + 1 := by
      rw [hkept s.sp.val (by omega), hstack, if_pos (by omega)]
    refine ⟨{ u with pc := u.stack.read s.sp.val, sp := s.sp }, ?_, by rw [hframe], hreturn, fun i hi => ?_⟩
    · rw [List.length_cons, List.replicate_succ', ← List.append_assoc]
      calc execAll _ s
        _ = execAll _ _ := execAll_cons_of_next hcall
        _ = execAll [.ret] u := execAll_append_of_next hinner
        _ = .next _ := execAll_cons_of_next hret
    · rw [List.length_cons] at hi
      rw [hkept i (by omega), hstack, if_neg (by omega)]

end Sys2Proof.Machine

/-! PROOFS. The extended group (45_extended.md): HLT, RST, OUT, NOT, PUSH, POP, RET and the reserved bytes, each with the
bytes that decode to it, and PUSHes in a row. -/

namespace Sys2Proof

/-! ## The extended map -/

/-- Opcode 0xF: the low nibble alone selects the operation (30_encoding.md R76, 45_extended.md R190). -/
theorem decodeByte_extended (n : Nibble) (t : Byte) : decodeByte (0xF#4 ++ n) t = decodeExtended n := by
  rw [← packByte_eq_append]
  simp [decodeByte]

theorem operandOf_toNat (b : Byte) : (operandOf b).toNat = b.toNat % 16 := BitVec.toNat_setWidth 4 b

/-- A byte from 0xF0 up has opcode 0xF, so the extended map decodes it (30_encoding.md R76). -/
theorem decodeByte_of_ge {b : Byte} (h : 0xF0 ≤ b.toNat) (t : Byte) :
    decodeByte b t = decodeExtended (operandOf b) := by
  have hop : opcodeOf b = 0xF#4 := by
    apply BitVec.eq_of_toNat_eq
    rw [opcodeOf_toNat]
    show b.toNat / 16 = 15
    omega
  have hbyte : b = 0xF#4 ++ operandOf b := by
    rw [← packByte_eq_append, ← hop, packByte_fields]
  calc decodeByte b t
    _ = decodeByte (0xF#4 ++ operandOf b) t := by rw [← hbyte]
    _ = decodeExtended (operandOf b) := decodeByte_extended _ t

end Sys2Proof

namespace Sys2Proof.Machine

variable {s : State}

/-! ## PUSH -/

/-- A push raises SP by one, but not past 16 (10_state.md R24). -/
theorem State.pushByte_sp (v : Byte) (s : State) : (s.pushByte v).sp.val = min 16 (s.sp.val + 1) := by
  have hsp := s.sp.isLt
  by_cases hroom : s.sp.val < 16
  · rw [State.pushByte_room s v hroom]
    simp only
    omega
  · rw [State.pushByte_full s v (by omega)]
    omega

/-- A push writes the cell at SP if there is one, and no other (45_extended.md R195). -/
theorem State.pushByte_read (v : Byte) (s : State) (k : Nat) :
    (s.pushByte v).stack.read k = if k = s.sp.val ∧ s.sp.val < 16 then v else s.stack.read k := by
  have hsp := s.sp.isLt
  by_cases hroom : s.sp.val < 16
  · rw [State.pushByte_room s v hroom, Memory.read_write]
    simp only [hroom, and_true]
  · rw [State.pushByte_full s v (by omega), if_neg fun h => hroom h.2]

theorem exec_push (s : State) : exec .push s = .next (s.pushByte (s.acc.setWidth 8)) := rfl

/-- Settles O47, by induction on the PUSHes: the ones after the first start from the state that it leaves, whose ACC is
the old one. -/
theorem pushesStopAtSixteen : Obligations.PushesStopAtSixteen := by
  intro k s
  induction k generalizing s with
  | zero =>
    have hbound := s.sp.isLt
    exact ⟨s, rfl, rfl, by omega, fun i => by rw [if_neg (by omega)]⟩
  | succ k ih =>
    have hacc : (s.pushByte (s.acc.setWidth 8)).acc = s.acc := by rw [State.pushByte_frame]
    have hsp := State.pushByte_sp (s.acc.setWidth 8) s
    obtain ⟨t, hrest, hframe, htop, hcells⟩ := ih (s.pushByte (s.acc.setWidth 8))
    refine ⟨t, ?_, ?_, by omega, fun i => ?_⟩
    · rw [List.replicate_succ, execAll_cons_of_next (exec_push s), hrest]
    · rw [hframe, State.pushByte_frame]
    · rw [hcells, State.pushByte_read, hacc]
      by_cases hlater : (s.pushByte (s.acc.setWidth 8)).sp.val ≤ i ∧ i < t.sp.val
      · rw [if_pos hlater, if_pos (by omega)]
      · have hfirst : (i = s.sp.val ∧ s.sp.val < 16) ↔ (s.sp.val ≤ i ∧ i < t.sp.val) := by omega
        simp only [if_neg hlater, hfirst]

/-- Settles O24: PUSH is the push of the widened ACC. -/
theorem pushStoresAcc : Obligations.PushStoresAcc := by
  refine ⟨decodeByte_extended 4, fun s hfull => ?_, fun s hroom => ⟨_, exec_push s, ?_, ?_, fun i => ?_⟩⟩
  · rw [exec_push, State.pushByte_full s _ hfull]
  · exact (State.pushByte_frame s _).trans rfl
  · rw [State.pushByte_sp]
    omega
  · rw [State.pushByte_read]
    simp only [hroom, and_true]

/-! ## POP and RET -/

/-- A stack that is not empty has an entry right below SP. -/
theorem State.exists_sp_below (h : 0 < s.sp.val) : ∃ sp : Fin 17, s.sp.val = sp.val + 1 :=
  ⟨⟨s.sp.val - 1, by omega⟩, by simp only; omega⟩

theorem exec_pop_of_empty (h : s.sp.val = 0) : exec .pop s = .next s := by
  rw [exec, execPop, State.popByte_empty s h]

theorem exec_ret_of_empty (h : s.sp.val = 0) : exec .ret s = .next s := by
  rw [exec, execRet, State.popByte_empty s h]

/-- POP loads the low nibble of the entry below SP and takes it off the stack (45_extended.md R196). -/
theorem exec_pop_of_sp {sp : Fin 17} (hsp : s.sp.val = sp.val + 1) :
    exec .pop s = .next { s with acc := lowNibble (s.readStack sp.val), sp := sp } := by
  rw [exec, execPop, State.popByte_of_sp hsp]
  rfl

theorem lowNibble_toNat (b : Byte) : (lowNibble b).toNat = b.toNat % 16 := BitVec.toNat_setWidth 4 b

/-- Settles O25: `exec_pop_of_sp` gives the state that POP leaves of a stack that is not empty. -/
theorem popLoadsTheLowNibble : Obligations.PopLoadsTheLowNibble := by
  refine ⟨decodeByte_extended 5, fun s => exec_pop_of_empty, fun s hsome => ?_⟩
  obtain ⟨sp, hsp⟩ := State.exists_sp_below hsome
  have hpred : s.sp.val - 1 = sp.val := by omega
  rw [hpred]
  exact ⟨_, exec_pop_of_sp hsp, rfl, rfl, lowNibble_toNat _⟩

/-- Settles O26: `exec_ret_of_sp` gives the state that RET leaves of a stack that is not empty. -/
theorem retPopsIntoPc : Obligations.RetPopsIntoPc := by
  refine ⟨decodeByte_extended 6, fun s => exec_ret_of_empty, fun s hsome => ?_⟩
  obtain ⟨sp, hsp⟩ := State.exists_sp_below hsome
  have hpred : s.sp.val - 1 = sp.val := by omega
  rw [hpred]
  exact ⟨_, exec_ret_of_sp hsp, rfl, rfl⟩

/-! ## HLT, RST, OUT, NOT and the reserved bytes -/

/-- Settles O20: the meaning of HLT is the move to `Halted`, where Fetch and Execute are gated and ResolveInput finds no
wait. -/
theorem hltHalts : Obligations.HltHalts := by
  refine ⟨decodeByte_extended 0, fun _ => rfl, fun s value hs => ⟨?_, ?_, ?_⟩⟩
  · exact congrArg _ (State.fetch_halted hs)
  · exact State.execute_stopped (by simp [hs])
  · exact (resolveInputCompletesTheLda value s).1 (by simp [hs])

/-- Settles O21: RST and the host's Reset are both `State.softReset`, which clears RAM and keeps or clears STACK. -/
theorem rstIsTheSoftReset : Obligations.RstIsTheSoftReset := by
  refine ⟨decodeByte_extended 1, fun s => ⟨rfl, s.softReset, rfl, rfl, Memory.read_cleared, ?_⟩⟩
  rw [State.softReset_stack]
  obtain hkept | hcleared := stackAfterReset_cases Config.stackOnReset s.stack
  · exact .inl fun i => by rw [hkept]
  · exact .inr fun i => by rw [hcleared, Memory.read_cleared]

/-- Settles O22: the meaning of OUT is the emission of ACC. -/
theorem outAppendsAcc : Obligations.OutAppendsAcc := ⟨decodeByte_extended 2, fun _ => rfl⟩

/-- Settles O23: the complement of a nibble is 15 minus it, written with Z. -/
theorem notIsFifteenMinusAcc : Obligations.NotIsFifteenMinusAcc :=
  ⟨decodeByte_extended 3, fun s => ⟨s.setAccZ (~~~s.acc), rfl, rfl, BitVec.toNat_not, zeroFlag_iff _⟩⟩

/-- Settles O27: from 0xF7 up the extended map has the two reserved rows only, whose meanings are the state they were
given. -/
theorem reservedBytesChangeNothing : Obligations.ReservedBytesChangeNothing := by
  refine ⟨fun b t hreserved => ?_, fun _ => rfl, fun _ _ => rfl⟩
  rw [decodeByte_of_ge (by omega) t]
  by_cases hlowest : b = 0xF7
  · rw [if_pos hlowest, hlowest]
    rfl
  · rw [if_neg hlowest]
    apply decodeExtended_of_isHighReserved
    have hne : b.toNat ≠ 0xF7 := fun h => hlowest (BitVec.eq_of_toNat_eq h)
    have hnibble := operandOf_toNat b
    have hbound := b.isLt
    exact decide_eq_true (by omega)

end Sys2Proof.Machine

/-! PROOFS. Exceptions and the host's switches (60_exceptions.md): ToggleSwitch flips one bit of SW, and no step from any
state raises an error. -/

namespace Sys2Proof.Machine

/-! ## ToggleSwitch -/

/-- `x ^ (1 << i)` is `x` with bit `i` flipped (60_exceptions.md R228). -/
theorem getLsbD_xor_one_shiftLeft {w i : Nat} (x : BitVec w) (hi : i < w) (k : Nat) :
    (x ^^^ (1#w <<< i)).getLsbD k = if k = i then !x.getLsbD k else x.getLsbD k := by
  rw [← BitVec.twoPow_eq, BitVec.getLsbD_xor, BitVec.getLsbD_twoPow]
  by_cases hk : k = i
  · simp [hk, hi]
  · simp [hk, Ne.symm hk]

theorem State.toggleSwitch_getLsbD (i k : Fin 4) (s : State) :
    (s.toggleSwitch i).sw.getLsbD k.val = if k = i then !s.sw.getLsbD k.val else s.sw.getLsbD k.val := by
  rw [State.toggleSwitch_sw, getLsbD_xor_one_shiftLeft s.sw i.isLt]
  simp only [Fin.ext_iff]

/-- Settles O32: ToggleSwitch asks for no control state and writes SW alone. -/
theorem toggleSwitchFlipsOneBit : Obligations.ToggleSwitchFlipsOneBit :=
  fun i s => ⟨s.toggleSwitch i, rfl, rfl, fun k => s.toggleSwitch_getLsbD i k⟩

/-! ## Runs of any length -/

/-- A step answers a next state: in `Running` every instruction does, and a stopped machine stays as it is
(60_exceptions.md R220, 40_cycle.md R119). -/
theorem step_answers (s : State) : ∃ t, step s = .next t := by
  by_cases hs : s.state = .running
  · rw [step_running hs]
    exact exec_answers s.fetched.currentInstr s.fetched
  · exact ⟨s, step_stopped hs⟩

/-- Settles O43, by induction on the number of steps. -/
theorem noRunEverStops : Obligations.NoRunEverStops := by
  intro k
  induction k with
  | zero => exact fun s => ⟨s, core_run_zero s⟩
  | succ k ih =>
    intro s
    obtain ⟨s', hstep⟩ := step_answers s
    rw [core_run_succ hstep]
    exact ih s'

end Sys2Proof.Machine

/-! PROOFS. Reset and hazards (70_reset_and_hazards.md): no program observes what a reset leaves open, what LoadProgram
loads, and the bytes that Fetches during a wait skip. -/

namespace Sys2Proof.Machine

variable {i : Instr} {s s' t : State}

/-! ## What a program cannot observe, as a change of the state -/

/-- Two regions read alike at every address below `n`. -/
def Memory.AgreeBelow {w : Nat} (n : Nat) (m k : Memory w) : Prop := ∀ a, a < n → m.read a = k.read a

/-- The highest of the cells that agree, and the cells below it. -/
theorem Memory.AgreeBelow.top {w n : Nat} {m k : Memory w} (h : m.AgreeBelow (n + 1) k) :
    m.read n = k.read n ∧ m.AgreeBelow n k :=
  ⟨h n (Nat.lt_succ_self n), fun a ha => h a (Nat.lt_succ_of_lt ha)⟩

/-- The same value written right above the cells that agree is one more cell that agrees. -/
theorem Memory.AgreeBelow.write_top {w n : Nat} {m k : Memory w} (h : m.AgreeBelow n k) (v : BitVec w) :
    (m.write n v).AgreeBelow (n + 1) (k.write n v) := by
  intro a ha
  rw [Memory.read_write, Memory.read_write]
  split
  · rfl
  · exact h a (by omega)

/-- `s` with other values in IR, STACK and the count of draws, the elements a program cannot observe in full
(70_reset_and_hazards.md R256). -/
def State.withHidden (ir : Byte) (stack : Memory 8) (draws : Nat) (s : State) : State :=
  { s with ir := ir, stack := stack, resetDraws := draws }

theorem State.sameToPrograms_withHidden (ir : Byte) {stack : Memory 8} (draws : Nat)
    (h : s.stack.AgreeBelow s.sp.val stack) : s.SameToPrograms (s.withHidden ir stack draws) :=
  ⟨rfl, rfl, rfl, rfl, rfl, rfl, rfl, rfl, h, rfl, rfl, rfl⟩

/-- A state that agrees with `s` is `s` but for the hidden elements, and its STACK agrees below SP. -/
theorem State.SameToPrograms.eq_withHidden (h : s.SameToPrograms t) :
    t = s.withHidden t.ir t.stack t.resetDraws ∧ s.stack.AgreeBelow s.sp.val t.stack := by
  obtain ⟨hacc, hpc, hsp, hz, hc, hstate, hrom, hram, hstack, hled, hsw, hout⟩ := h
  refine ⟨?_, hstack⟩
  rw [State.withHidden, hacc, hpc, hsp, hz, hc, hstate, hrom, hram, hled, hsw, hout]

/-! ## CALL and PUSH at each end of the stack -/

/-- A push on a stack with room, whose next SP is `sp` (45_extended.md R195). -/
theorem State.pushByte_of_sp {sp : Fin 17} (v : Byte) (hsp : sp.val = s.sp.val + 1) :
    s.pushByte v = { s with stack := s.stack.write s.sp.val v, sp := sp } := by
  have hroom : s.sp.val < 16 := by omega
  have hnext : sp = ⟨s.sp.val + 1, Nat.succ_lt_succ hroom⟩ := Fin.ext hsp
  rw [State.pushByte_room s v hroom, hnext]

theorem exec_push_of_full (h : s.sp.val = 16) : exec .push s = .next s := by
  rw [exec_push, State.pushByte_full s _ h]

theorem exec_push_of_sp {sp : Fin 17} (hsp : sp.val = s.sp.val + 1) :
    exec .push s = .next { s with stack := s.stack.write s.sp.val (widen s.acc), sp := sp } :=
  congrArg _ (State.pushByte_of_sp (widen s.acc) hsp)

theorem exec_call_of_full (x : Nibble) (a : Byte) (h : s.sp.val = 16) : exec (.call x a) s = .next (s.jumpTo a) := by
  rw [exec, execCall, State.pushByte_full s _ h]

theorem exec_call_of_sp {sp : Fin 17} (x : Nibble) (a : Byte) (hsp : sp.val = s.sp.val + 1) :
    exec (.call x a) s = .next { s with pc := a, stack := s.stack.write s.sp.val (s.pc + 1), sp := sp } := by
  rw [exec, execCall, State.pushByte_of_sp _ hsp]
  rfl

/-! ## The hidden elements stay hidden -/

/-- An instruction leaves agreeing states of agreeing states. No meaning reads IR; CALL and PUSH write the cell at SP with
the same value, POP and RET read the cell below SP only, and RST draws IR anew and may clear STACK, but leaves SP 0, below
which there is no cell. -/
theorem exec_sameToPrograms (h : s.SameToPrograms t) (hexec : exec i s = .next s') :
    ∃ t', exec i t = .next t' ∧ s'.SameToPrograms t' := by
  obtain ⟨ht, hstack⟩ := h.eq_withHidden
  generalize t.ir = ir, t.stack = stack, t.resetDraws = draws at ht hstack
  subst ht
  apply exec_cases (P := fun i s' => ∃ t', exec i (s.withHidden ir stack draws) = .next t' ∧ s'.SameToPrograms t') hexec
  case lda => exact fun n hn => ⟨_, exec_lda_of_ne _ hn, State.sameToPrograms_withHidden ir draws hstack⟩
  case sta => exact fun n hn => ⟨_, if_neg hn, State.sameToPrograms_withHidden ir draws hstack⟩
  case jz => exact fun x a => ⟨_, exec_jz x a _, State.sameToPrograms_withHidden ir draws hstack⟩
  case jc => exact fun x a => ⟨_, exec_jc x a _, State.sameToPrograms_withHidden ir draws hstack⟩
  case callFull =>
    exact fun x a hfull => ⟨_, exec_call_of_full x a hfull, State.sameToPrograms_withHidden ir draws hstack⟩
  case pushFull =>
    exact fun hfull => ⟨_, exec_push_of_full hfull, State.sameToPrograms_withHidden ir draws hstack⟩
  case call =>
    intro x a sp _ hsp
    have hbelow := hsp ▸ hstack.write_top (s.pc + 1)
    exact ⟨_, exec_call_of_sp x a hsp, State.sameToPrograms_withHidden ir draws hbelow⟩
  case push =>
    intro sp _ hsp
    have hbelow := hsp ▸ hstack.write_top (widen s.acc)
    exact ⟨_, exec_push_of_sp hsp, State.sameToPrograms_withHidden ir draws hbelow⟩
  case popEmpty =>
    exact fun hempty => ⟨_, exec_pop_of_empty hempty, State.sameToPrograms_withHidden ir draws hstack⟩
  case retEmpty =>
    exact fun hempty => ⟨_, exec_ret_of_empty hempty, State.sameToPrograms_withHidden ir draws hstack⟩
  case pop =>
    intro sp hsome hpred
    have hsp : s.sp.val = sp.val + 1 := by omega
    obtain ⟨htop, hbelow⟩ := Memory.AgreeBelow.top (hsp ▸ hstack)
    rw [State.readStack, ← hpred, htop]
    exact ⟨_, exec_pop_of_sp hsp, State.sameToPrograms_withHidden ir draws hbelow⟩
  case ret =>
    intro sp hsome hpred
    have hsp : s.sp.val = sp.val + 1 := by omega
    obtain ⟨htop, hbelow⟩ := Memory.AgreeBelow.top (hsp ▸ hstack)
    rw [State.readStack, ← hpred, htop]
    exact ⟨_, exec_ret_of_sp hsp, State.sameToPrograms_withHidden ir draws hbelow⟩
  case rst => exact ⟨_, rfl, State.sameToPrograms_withHidden _ _ nofun⟩
  all_goals intros; exact ⟨_, rfl, State.sameToPrograms_withHidden ir draws hstack⟩

/-- Fetch overwrites IR with the byte at PC, which is the same in agreeing states. -/
theorem State.SameToPrograms.fetched (h : s.SameToPrograms t) :
    s.fetched.SameToPrograms t.fetched ∧ t.fetched.currentInstr = s.fetched.currentInstr := by
  obtain ⟨ht, hstack⟩ := h.eq_withHidden
  rw [ht]
  exact ⟨State.sameToPrograms_withHidden _ _ hstack, rfl⟩

/-- A step of agreeing states runs one instruction in both, or leaves both as they are. -/
theorem step_sameToPrograms (h : s.SameToPrograms t) :
    ∃ s' t', step s = .next s' ∧ step t = .next t' ∧ s'.SameToPrograms t' := by
  by_cases hs : s.state = .running
  · obtain ⟨hfetched, hinstr⟩ := h.fetched
    obtain ⟨s', hs'⟩ := exec_answers s.fetched.currentInstr s.fetched
    obtain ⟨t', ht', hsame⟩ := exec_sameToPrograms hfetched hs'
    exact ⟨s', t', (step_running hs).trans hs', by rw [step_running (h.state ▸ hs), hinstr, ht'], hsame⟩
  · exact ⟨s, t, step_stopped hs, step_stopped (h.state ▸ hs), h⟩

/-- Settles O55: two resets differ in the hidden elements only, with SP 0; a run keeps the agreement by induction on the
number of steps. -/
theorem programsCannotObserveResetParameters : Obligations.ProgramsCannotObserveResetParameters := by
  refine ⟨fun ir₁ ir₂ p₁ p₂ s => State.sameToPrograms_withHidden ir₂ s.resetDraws nofun, fun k => ?_⟩
  induction k with
  | zero => exact fun s t h => ⟨s, t, core_run_zero s, core_run_zero t, h⟩
  | succ k ih =>
    intro s t h
    obtain ⟨s', t', hs', ht', hsame⟩ := step_sameToPrograms h
    rw [core_run_succ hs', core_run_succ ht']
    exact ih s' t' hsame

/-! ## LoadProgram -/

/-- Code above 256 bytes is refused, whatever the image (92_eei_decisions.md D14, log 13). -/
theorem State.loadProgram_of_long {code : List Byte} (image : List (Nat × Int)) (s : State)
    (h : Config.romCells < code.length) : s.loadProgram code image = .refused .codeTooLong := by
  rw [State.loadProgram, if_pos h]

/-- An image entry outside RAM is refused, if the code fits (92_eei_decisions.md D14). -/
theorem State.loadProgram_of_offset {code : List Byte} {image : List (Nat × Int)} (s : State)
    (hcode : code.length ≤ Config.romCells) (h : ∃ e ∈ image, Config.ramCells ≤ e.1) :
    s.loadProgram code image = .refused .imageOffsetOutOfRange := by
  have hall : ¬ image.all (fun e => decide (e.1 < Config.ramCells)) = true := by simpa using h
  rw [State.loadProgram, if_neg (Nat.not_lt.mpr hcode), if_neg hall]

/-- A region loaded from address 0 reads as the list, and as 0 past its end (70_reset_and_hazards.md R252). -/
theorem Memory.read_writeFrom_cleared {w : Nat} (vs : List (BitVec w)) (a : Nat) :
    (Memory.writeFrom Memory.cleared 0 vs).read a = vs.getD a 0 := by
  rw [Memory.read_writeFrom, Memory.read_cleared, List.getD_eq_getElem?_getD]
  by_cases ha : a < vs.length
  · simp [ha]
  · simp [ha]

/-- Settles O33: the two refusals, and the state of `State.loadedWith`, whose ROM and RAM are the lists written into
cleared regions. -/
theorem loadProgramLoadsCodeAndImage : Obligations.LoadProgramLoadsCodeAndImage := by
  refine fun code image s => ⟨s.loadProgram_of_long image, s.loadProgram_of_offset, fun hcode himage hnodup => ?_⟩
  refine ⟨_, State.loadProgram_of_fits hcode himage, rfl, Memory.read_writeFrom_cleared code, fun e he => ?_,
    fun a ha => Memory.read_writeImage_of_notMem Memory.cleared ha⟩
  show (((Memory.writeImage Memory.cleared image).read e.1).toNat : Int) = e.2 % 16
  rw [Memory.read_writeImage_of_mem Memory.cleared hnodup he]
  exact toNibble_toNat e.2

/-! ## Fetches during the wait -/

/-- k + 1 Fetches in a row, with the machine not halted, raise PC by k + 1 and leave in IR the last byte fetched
(40_cycle.md R110). -/
theorem performAll_fetches (k : Nat) (hs : s.state ≠ .halted) :
    performAll (List.replicate (k + 1) .fetch) s =
      .next { s with pc := s.pc + BitVec.ofNat 8 (k + 1), ir := s.readRom (s.pc + BitVec.ofNat 8 k) } := by
  induction k generalizing s with
  | zero =>
    rw [BitVec.add_zero]
    exact congrArg _ (State.fetch_of_not_halted hs)
  | succ k ih =>
    have hfetch : perform .fetch s = .next s.fetched := congrArg _ (State.fetch_of_not_halted hs)
    have hpc (n : Nat) : s.fetched.pc + BitVec.ofNat 8 n = s.pc + BitVec.ofNat 8 (n + 1) := by
      rw [State.fetched_pc, BitVec.add_assoc, Nat.add_comm n 1, BitVec.ofNat_add, BitVec.ofNat_eq_ofNat]
    rw [List.replicate_succ, performAll_cons_of_next hfetch, ih (s := s.fetched) hs, hpc, hpc]
    rfl

/-- Settles O49: the Fetches of `performAll_fetches`, then ResolveInput, which keeps PC, IR and ROM (O31). -/
theorem fetchesWhileWaitingSkipBytes : Obligations.FetchesWhileWaitingSkipBytes := by
  intro k value s hs
  have hfetches := performAll_fetches k (s := s) (by simp [hs])
  obtain ⟨t, ht, hframe, -⟩ := (resolveInputCompletesTheLda value
    { s with pc := s.pc + BitVec.ofNat 8 (k + 1), ir := s.readRom (s.pc + BitVec.ofNat 8 k) }).2 hs
  have hrunning : t.state = .running := by rw [hframe]
  have hrom : t.rom = s.rom := by rw [hframe]
  have hinstr : t.currentInstr = decodeByte t.ir (s.readRom t.pc) := by
    rw [State.currentInstr, State.readRom, hrom, State.readRom]
  refine ⟨t, ?_, hrunning, by rw [hframe], by rw [hframe], ?_⟩
  · rw [performAll_append_of_next hfetches, performAll_cons_of_next ht]
    rfl
  · exact hinstr ▸ State.execute_running hrunning

end Sys2Proof.Machine
